-- ==== Sys2Proof/Word.lean ====
section
/-! DEFINITION. The word types of the DLS I2C master (spec/00_scope.md R7, R9; spec/20_memory.md R39). All values are unsigned. -/

namespace Sys2Proof

/-- DATA_W (R7): a data byte, a bus byte, a status byte. -/
abbrev Byte := BitVec 8

/-- A command word (R65) and the value a port transaction moves (R69). -/
abbrev Word := BitVec 32

/-- A port address (R16): 0x000..0x1FF. -/
abbrev Port := BitVec 9

/-- LADDR_W (R7): a logical EEPROM address (R41). -/
abbrev LAddr := BitVec 16

/-- An effective device address (R42): a byte of the reference EEPROM. -/
abbrev EAddr := BitVec 11

end Sys2Proof
end

