-- ==== Sys2Proof/Config.lean ====
section
/-! DEFINITION. The parameters the spec leaves to a model (spec/00_scope.md R8), the environment's answers, and the free
values. The parameters are plain data: State holds a Config, no step changes it, and every statement holds for every Config. -/

namespace Sys2Proof

/-- R73: the eleven status names. -/
inductive StatusName where
  | start | repeatedStart | addressAckW | addressNackW | dataAck | dataTxNack
  | addressAckR | addressNackR | dataRxAck | dataNack | busError
deriving DecidableEq, Repr, Inhabited

/-- R73: the eleven names in the table's order. -/
def StatusName.all : List StatusName :=
  [.start, .repeatedStart, .addressAckW, .addressNackW, .dataAck, .dataTxNack,
   .addressAckR, .addressNackR, .dataRxAck, .dataNack, .busError]

/-- SC (R8, R73): a value for each status name. -/
structure StatusTable where
  start : Byte
  repeatedStart : Byte
  addressAckW : Byte
  addressNackW : Byte
  dataAck : Byte
  dataTxNack : Byte
  addressAckR : Byte
  addressNackR : Byte
  dataRxAck : Byte
  dataNack : Byte
  busError : Byte
deriving DecidableEq, Repr

/-- SC.n. -/
def StatusTable.code (sc : StatusTable) : StatusName → Byte
  | .start => sc.start
  | .repeatedStart => sc.repeatedStart
  | .addressAckW => sc.addressAckW
  | .addressNackW => sc.addressNackW
  | .dataAck => sc.dataAck
  | .dataTxNack => sc.dataTxNack
  | .addressAckR => sc.addressAckR
  | .addressNackR => sc.addressNackR
  | .dataRxAck => sc.dataRxAck
  | .dataNack => sc.dataNack
  | .busError => sc.busError

/-- R74: bits 2..0 of every code are zero and the eleven codes are pairwise distinct. -/
def StatusTable.legal (sc : StatusTable) : Bool :=
  StatusName.all.all (fun n => sc.code n &&& 0x07#8 == 0#8) && decide (StatusName.all.map sc.code).Nodup

/-- R73: the default table. UNVERIFIED: the spec takes these numbers from general knowledge (G1); unsafe for a claim that
names a number (log entry 22). -/
def StatusTable.default : StatusTable where
  start := 0x08#8
  repeatedStart := 0x10#8
  addressAckW := 0x18#8
  addressNackW := 0x20#8
  dataAck := 0x28#8
  dataTxNack := 0x30#8
  addressAckR := 0x40#8
  addressNackR := 0x48#8
  dataRxAck := 0x50#8
  dataNack := 0x58#8
  busError := 0x00#8

/-- DEVICE_MODE (R8, R51): the remote answers are free draws, or come from the reference EEPROM. -/
inductive DeviceMode where
  | oracle
  | ref
deriving DecidableEq, Repr, Inhabited

/-- The parameters of R8 that some rule reads. T_SETTLE is read by none (R133; log entry 20). -/
structure Config where
  sc : StatusTable
  mode : DeviceMode
  strictArray : Bool
deriving DecidableEq, Repr

/-- The value of the acknowledge bit (R12, R14). -/
inductive AckBit where
  | ack
  | nack
deriving DecidableEq, Repr, Inhabited

/-- R11, R82: the draws the environment makes for one completion: env.berr(), env.ack(), env.rx() and draw(3). A completion
reads those its rule names. DESIGN CHOICE: one record per completion; safe (log entry 2). -/
structure BusAnswer where
  berr : Bool
  ack : AckBit
  rx : Byte
  low : BitVec 3
deriving DecidableEq, Repr, Inhabited

/-- R5: the agents that have steps. The engine acts in the steps of the others. -/
inductive Agent where
  | host
  | sequencer
  | bus
deriving DecidableEq, Repr, Inhabited

/-- FREE VALUE (R82, R59): the environment's answer number k where the input script State.answers is used up. It has no body,
so nothing can be proved of its value. Safe (log entry 2). -/
opaque Config.freeAnswer : Nat → BusAnswer

/-- FREE VALUE (R112): the agent that moves at free choice number k where the input script State.turns is used up. It has no
body, so no priority and no fairness holds. Safe (log entry 1). -/
opaque Config.freeTurn : Nat → Agent

end Sys2Proof
end

