-- ==== Sys2Proof/Syntax.lean ====
section
/-! DEFINITION. The instructions: one constructor per row of spec/opcode_table.json (spec/30_encoding.md R67, R69).
The first ten are command words the host writes to CMD; the others are port transactions. -/

namespace Sys2Proof

/-- What the host can ask of the block. -/
inductive Instr where
  /-- R84, format I: program the divisor and the own address, enable the bus interface. -/
  | init (div own : Byte)
  /-- R85, format N: start or repeated start. -/
  | start
  /-- R86, format N: stop. -/
  | stop
  /-- R87, format B: transmit one byte. -/
  | write (data : Byte)
  /-- R88, format N: receive one byte and acknowledge it. -/
  | readAck
  /-- R89, format N: receive one byte and do not acknowledge it. -/
  | readNack
  /-- R97, format AD. -/
  | eeWriteByte (addr : LAddr) (data : Byte)
  /-- R98, format A. -/
  | eeReadByte (addr : LAddr)
  /-- R100, format AN. -/
  | eeWriteArray (addr : LAddr) (count : Byte)
  /-- R101, format AN. -/
  | eeReadArray (addr : LAddr) (count : Byte)
  /-- R90: PortRead(0x002). -/
  | getStatus
  /-- R91: PortRead(0x000). -/
  | prCmd
  /-- R91: PortRead(0x001). -/
  | prStatusRaw
  /-- R91: PortRead(0x003). -/
  | prReady
  /-- R91: PortRead(0x004). -/
  | prData
  /-- R91: PortRead(0x005). -/
  | prDiv
  /-- R91: PortRead(0x006). -/
  | prOwnaddr
  /-- R91: PortRead(0x007). -/
  | prEn
  /-- R91: PortRead(0x008). -/
  | prSeqReady
  /-- R91: PortRead(0x009). -/
  | prResult
  /-- R91: PortRead(0x00A). -/
  | prRdata
  /-- R91: PortRead(0x100 + i). -/
  | prBuf (i : Byte)
  /-- R92: PortWrite(0x000, v), v a command word. -/
  | pwCmd (v : Word)
  /-- R92: PortWrite(0x100 + i, v). -/
  | pwBuf (i : Byte) (v : Word)
deriving DecidableEq, Repr, Inhabited

end Sys2Proof
end

