-- ==== Sys2Proof/WellFormed.lean ====
section
/-! DEFINITION. Which instructions the encoding gives a meaning (spec/30_encoding.md R66 to R69). Every other field is a bit
vector of the field's own width, so the two checks below are all there is: PW_CMD carries an assigned command word, and
PW_BUF carries a value whose bits 31..8 are zero. An ill-formed instruction still has an arm: it faults RESERVED_ENCODING. -/

namespace Sys2Proof

/-- R66, R67: the ten command rows as (match, mask) pairs, the opcode map and its must-be-zero fields. -/
def commandRows : List (Word × Word) :=
  [(0x01000000#32, 0xFFFF0000#32),
   (0x02000000#32, 0xFFFFFFFF#32),
   (0x03000000#32, 0xFFFFFFFF#32),
   (0x04000000#32, 0xFFFFFF00#32),
   (0x05000000#32, 0xFFFFFFFF#32),
   (0x06000000#32, 0xFFFFFFFF#32),
   (0x10000000#32, 0xFF000000#32),
   (0x11000000#32, 0xFF0000FF#32),
   (0x12000000#32, 0xFF000000#32),
   (0x13000000#32, 0xFF000000#32)]

/-- R67: the word matches one of the command rows. -/
def rowMatches (w : Word) (row : Word × Word) : Bool := w &&& row.2 == row.1

/-- R68: the word is not reserved. -/
def assignedWord (w : Word) : Bool := commandRows.any (rowMatches w)

/-- R69: bits 31..8 of a value written to BUF must be zero. -/
def bufValueOk (v : Word) : Bool := v.extractLsb' 8 24 == 0#24

/-- An instruction whose every field the encoding allows. -/
def Instr.wellFormed : Instr → Bool
  | .pwCmd v => assignedWord v
  | .pwBuf _ v => bufValueOk v
  | .init _ _ => true
  | .start => true
  | .stop => true
  | .write _ => true
  | .readAck => true
  | .readNack => true
  | .eeWriteByte _ _ => true
  | .eeReadByte _ => true
  | .eeWriteArray _ _ => true
  | .eeReadArray _ _ => true
  | .getStatus => true
  | .prCmd => true
  | .prStatusRaw => true
  | .prReady => true
  | .prData => true
  | .prDiv => true
  | .prOwnaddr => true
  | .prEn => true
  | .prSeqReady => true
  | .prResult => true
  | .prRdata => true
  | .prBuf _ => true

end Sys2Proof
end

