-- ==== Sys2Proof/Decode.lean ====
section
/-! DEFINITION. The decoder, total on every command word and every port transaction, rejecting by name; and after it the
encoder (spec/30_encoding.md R65 to R69, R75, R76). -/

namespace Sys2Proof

/-- The six engine commands (R67): what the host or the sequencer issues to the engine. -/
inductive EngineCmd where
  | init (div own : Byte)
  | start
  | stop
  | write (data : Byte)
  | readAck
  | readNack
deriving DecidableEq, Repr, Inhabited

/-- The four sequencer commands (R67). -/
inductive SeqCmd where
  | writeByte (addr : LAddr) (data : Byte)
  | readByte (addr : LAddr)
  | writeArray (addr : LAddr) (count : Byte)
  | readArray (addr : LAddr) (count : Byte)
deriving DecidableEq, Repr, Inhabited

/-- A decoded command word (R67): "unit" says which agent runs it. -/
inductive Command where
  | engine (c : EngineCmd)
  | sequencer (c : SeqCmd)
deriving DecidableEq, Repr, Inhabited

/-- What the host puts on the port interface: a mnemonic line's command word, a port read, or a port write (R69, R77). -/
inductive Transfer where
  | command (w : Word)
  | portRead (p : Port)
  | portWrite (p : Port) (v : Word)
deriving DecidableEq, Repr, Inhabited

/-- Why a transfer decodes to no instruction (R68, R91, R92). -/
inductive Reject where
  | reservedEncoding (w : Word)
  | portUnmapped (p : Port)
  | portReadOnly (p : Port)
deriving DecidableEq, Repr, Inhabited

/-! ### Fields of a command word (R66) -/

/-- w[31:24]. -/
def opcodeOf (w : Word) : Byte := w.extractLsb' 24 8

/-- w[23:16]. -/
def field23to16 (w : Word) : Byte := w.extractLsb' 16 8

/-- w[15:8]: INIT's div. -/
def field15to8 (w : Word) : Byte := w.extractLsb' 8 8

/-- w[7:0]: data, count, own. -/
def field7to0 (w : Word) : Byte := w.extractLsb' 0 8

/-- w[23:8]: a logical address. -/
def fieldAddr (w : Word) : LAddr := w.extractLsb' 8 16

/-- R76: the command if the must-be-zero check holds, else the reserved encoding. -/
def ifZero (zero : Bool) (w : Word) (c : Command) : Except Reject Command :=
  if zero then .ok c else .error (.reservedEncoding w)

/-- R76: decoding a command word; total on all 2^32 words. -/
def readCommand (w : Word) : Except Reject Command :=
  if opcodeOf w = 0x01#8 then ifZero (field23to16 w == 0#8) w (.engine (.init (field15to8 w) (field7to0 w)))
  else if opcodeOf w = 0x02#8 then ifZero (w.extractLsb' 0 24 == 0#24) w (.engine .start)
  else if opcodeOf w = 0x03#8 then ifZero (w.extractLsb' 0 24 == 0#24) w (.engine .stop)
  else if opcodeOf w = 0x04#8 then ifZero (fieldAddr w == 0#16) w (.engine (.write (field7to0 w)))
  else if opcodeOf w = 0x05#8 then ifZero (w.extractLsb' 0 24 == 0#24) w (.engine .readAck)
  else if opcodeOf w = 0x06#8 then ifZero (w.extractLsb' 0 24 == 0#24) w (.engine .readNack)
  else if opcodeOf w = 0x10#8 then .ok (.sequencer (.writeByte (fieldAddr w) (field7to0 w)))
  else if opcodeOf w = 0x11#8 then ifZero (field7to0 w == 0#8) w (.sequencer (.readByte (fieldAddr w)))
  else if opcodeOf w = 0x12#8 then .ok (.sequencer (.writeArray (fieldAddr w) (field7to0 w)))
  else if opcodeOf w = 0x13#8 then .ok (.sequencer (.readArray (fieldAddr w) (field7to0 w)))
  else .error (.reservedEncoding w)

/-- The instruction a command is. -/
def Command.toInstr : Command → Instr
  | .engine (.init div own) => .init div own
  | .engine .start => .start
  | .engine .stop => .stop
  | .engine (.write b) => .write b
  | .engine .readAck => .readAck
  | .engine .readNack => .readNack
  | .sequencer (.writeByte a d) => .eeWriteByte a d
  | .sequencer (.readByte a) => .eeReadByte a
  | .sequencer (.writeArray a n) => .eeWriteArray a n
  | .sequencer (.readArray a n) => .eeReadArray a n

/-- R76 for the mnemonic rows of the opcode table. -/
def decodeCommand (w : Word) : Except Reject Instr :=
  match readCommand w with
  | .ok c => .ok c.toInstr
  | .error r => .error r

/-- R91: the port reads with a meaning; every port of 0x00B..0x0FF is unmapped. -/
def decodePortRead (p : Port) : Except Reject Instr :=
  if p = 0x000#9 then .ok .prCmd
  else if p = 0x001#9 then .ok .prStatusRaw
  else if p = 0x002#9 then .ok .getStatus
  else if p = 0x003#9 then .ok .prReady
  else if p = 0x004#9 then .ok .prData
  else if p = 0x005#9 then .ok .prDiv
  else if p = 0x006#9 then .ok .prOwnaddr
  else if p = 0x007#9 then .ok .prEn
  else if p = 0x008#9 then .ok .prSeqReady
  else if p = 0x009#9 then .ok .prResult
  else if p = 0x00A#9 then .ok .prRdata
  else if p.toNat < 0x100 then .error (.portUnmapped p)
  else .ok (.prBuf (p.extractLsb' 0 8))

/-- R92: the port writes with a meaning, in the rule's order of checks. -/
def decodePortWrite (p : Port) (v : Word) : Except Reject Instr :=
  if 0x00B ≤ p.toNat ∧ p.toNat < 0x100 then .error (.portUnmapped p)
  else if p.toNat < 0x100 ∧ p ≠ 0x000#9 then .error (.portReadOnly p)
  else if p = 0x000#9 then .ok (.pwCmd v)
  else .ok (.pwBuf (p.extractLsb' 0 8) v)

/-- The decoder. -/
def decode : Transfer → Except Reject Instr
  | .command w => decodeCommand w
  | .portRead p => decodePortRead p
  | .portWrite p v => decodePortWrite p v

/-! ### Table words (R69): a port transaction as bits -/

/-- R69: the 10-bit pattern with dir in bit 9 and the port in bits 8..0; a write also carries v. -/
def Transfer.ofPattern (pattern : BitVec 10) (v : Word) : Transfer :=
  if pattern.extractLsb' 9 1 = 1#1 then .portWrite (pattern.extractLsb' 0 9) v else .portRead (pattern.extractLsb' 0 9)

/-- A transfer from the bits of a table row. DESIGN CHOICE (log entry 18): a command word is 32 bits; a transaction is its
pattern in bits 9..0, bits 15..10 zero, and its value in bits 47..16 (zero where the row gives the value no bits). -/
def tableTransfer (nbits w : Nat) : Option Transfer :=
  if 16 < nbits ∧ nbits ≤ 32 then
    if w < 2 ^ 32 then some (.command (BitVec.ofNat 32 w)) else none
  else if w % 2 ^ 16 < 2 ^ 10 ∧ w < 2 ^ 48 then
    some (Transfer.ofPattern (BitVec.ofNat 10 (w % 2 ^ 16)) (BitVec.ofNat 32 (w / 2 ^ 16)))
  else none

/-- The instruction the decoder reads from an instruction whose bits are w, numbered as spec/opcode_table.json numbers them. -/
def decodeTableWord (nbits w : Nat) : Option Instr :=
  match tableTransfer nbits w with
  | none => none
  | some t =>
    match decode t with
    | .ok i => some i
    | .error _ => none

/-! ### The encoder, from the formats of R66 and the opcode map of R67 -/

/-- The word of an engine command. -/
def encodeEngine : EngineCmd → Word
  | .init div own => 0x01#8 ++ 0x00#8 ++ div ++ own
  | .start => 0x02#8 ++ 0x000000#24
  | .stop => 0x03#8 ++ 0x000000#24
  | .write b => 0x04#8 ++ 0x0000#16 ++ b
  | .readAck => 0x05#8 ++ 0x000000#24
  | .readNack => 0x06#8 ++ 0x000000#24

/-- The word of a sequencer command. -/
def encodeSeq : SeqCmd → Word
  | .writeByte a d => 0x10#8 ++ a ++ d
  | .readByte a => 0x11#8 ++ a ++ 0x00#8
  | .writeArray a n => 0x12#8 ++ a ++ n
  | .readArray a n => 0x13#8 ++ a ++ n

/-- The word of a command. -/
def encodeCommand : Command → Word
  | .engine c => encodeEngine c
  | .sequencer c => encodeSeq c

/-- The port of BUF[i] (R16): 0x100 + i. -/
def bufPort (i : Byte) : Port := 1#1 ++ i

/-- The encoder: the transfer of an instruction. -/
def encode : Instr → Transfer
  | .init div own => .command (encodeEngine (.init div own))
  | .start => .command (encodeEngine .start)
  | .stop => .command (encodeEngine .stop)
  | .write b => .command (encodeEngine (.write b))
  | .readAck => .command (encodeEngine .readAck)
  | .readNack => .command (encodeEngine .readNack)
  | .eeWriteByte a d => .command (encodeSeq (.writeByte a d))
  | .eeReadByte a => .command (encodeSeq (.readByte a))
  | .eeWriteArray a n => .command (encodeSeq (.writeArray a n))
  | .eeReadArray a n => .command (encodeSeq (.readArray a n))
  | .prCmd => .portRead 0x000#9
  | .prStatusRaw => .portRead 0x001#9
  | .getStatus => .portRead 0x002#9
  | .prReady => .portRead 0x003#9
  | .prData => .portRead 0x004#9
  | .prDiv => .portRead 0x005#9
  | .prOwnaddr => .portRead 0x006#9
  | .prEn => .portRead 0x007#9
  | .prSeqReady => .portRead 0x008#9
  | .prResult => .portRead 0x009#9
  | .prRdata => .portRead 0x00A#9
  | .prBuf i => .portRead (bufPort i)
  | .pwCmd v => .portWrite 0x000#9 v
  | .pwBuf i v => .portWrite (bufPort i) v

/-- The bits of a transfer (log entry 18): how many, and their number. -/
def tableWord : Transfer → Nat × Nat
  | .command w => (32, w.toNat)
  | .portRead p => (16, p.toNat)
  | .portWrite p v => (48, v.toNat * 2 ^ 16 + (2 ^ 9 + p.toNat))

end Sys2Proof
end

