-- ==== Sys2Proof/Machine/State.lean ====
section
/-! DEFINITION. The machine's state as plain data (spec/10_state.md; spec/20_memory.md R51 for the external device), the ways
it stops (spec/60_exceptions.md R108), and the state after reset (spec/70_reset_and_hazards.md R122, R123). -/

namespace Sys2Proof.Machine

/-- PHASE (R25): the engine's protocol position. -/
inductive Phase where
  | idle
  | addr
  | mt
  | mr
  | hold
deriving DecidableEq, Repr, Inhabited

/-- PEND (R26): the command whose started bus phase has not completed. -/
inductive Pending where
  | start
  | write (b : Byte)
  | readAck
  | readNack
deriving DecidableEq, Repr, Inhabited

/-- R12: the bus events of TRACE. -/
inductive BusEvent where
  | s
  | sr
  | tx (b : Byte) (k : AckBit)
  | rx (b : Byte) (k : AckBit)
  | p
  | berr
  | delay
deriving DecidableEq, Repr, Inhabited

/-- R28: the transaction result. -/
inductive Result where
  | success
  | error
deriving DecidableEq, Repr, Inhabited

/-- SEQ_PC (R31, R36): the micro-step labels of R96, R97, R98, R100 and R101. WA0 and RA0 are the operand load of the issuing
step and have no label of their own (DEDUCED, log entry 12). -/
inductive SeqPc where
  | idle
  | wb1 | wb2 | wb3 | wb4 | wb5 | wb6
  | rb1 | rb2 | rb3 | rb4 | rb5 | rb6 | rb7 | rb8
  | err
  | wa1 | wa2 | wa3 | wa4
  | ra1 | ra2 | ra3 | ra4
  | seqEnd
deriving DecidableEq, Repr, Inhabited

/-- WST (R51): the reference device's position in a transaction. -/
inductive DevPhase where
  | idle
  | wAddr
  | wData
  | wFull
  | rd
  | skip
deriving DecidableEq, Repr, Inhabited

/-- What a fault records beside its name (R108): the command word or the port address that caused it. -/
inductive Cause where
  | command (w : Word)
  | port (p : Port)
deriving DecidableEq, Repr, Inhabited

/-- The faults of R108, in its order. Each stops the machine: safe, since the spec gives the case no behaviour. -/
inductive Fault where
  /-- R108 #1; raised by a reserved command word and by a BUF write with v[31:8] not zero. Safe. -/
  | reservedEncoding (c : Cause)
  /-- R108 #2; raised by any command but INIT while EN = 0. Safe. -/
  | notInitialised (c : Cause)
  /-- R108 #3; raised by INIT while EN = 1. Safe. -/
  | reinit (c : Cause)
  /-- R108 #4; raised by any command but INIT while BUSY = 1. Safe. -/
  | cmdWhileBusy (c : Cause)
  /-- R108 #5; raised by an engine command in a PHASE where R81 says no. Safe. -/
  | outOfOrder (c : Cause)
  /-- R108 #6; raised by a host port write while SEQ_READY = 0. Safe. DESIGN CHOICE: for a write of CMD the cause is the
  command word (log entry 28). -/
  | hostWhileSeqBusy (c : Cause)
  /-- R108 #7; raised by reading a none value through a port (R35, R90, R91) or using one as an operand (R10, R100): none is
  the spec's own value of a register, and this fault is the effect the spec gives. Safe. -/
  | readUnwritten (c : Cause)
  /-- R108 #8; raised by any access of port 0x00B..0x0FF. Safe. -/
  | portUnmapped (c : Cause)
  /-- R108 #9; raised by a write of port 0x001..0x00A. Safe. -/
  | portReadOnly (c : Cause)
  /-- Not of R108: an array step with SEQ_I above 255, which names no element of BUF. DESIGN CHOICE: raised only in states no
  run reaches. Safe (log entry 14). -/
  | noSuchElement (c : Cause)
deriving DecidableEq, Repr, Inhabited

/-- The refusals: the two of R108, and the one for an instruction with no meaning. -/
inductive Refusal where
  /-- An instruction that has no meaning yet, by its mnemonic; raised by exec's arms only. Safe. -/
  | notModelled (mnemonic : String)
  /-- R108 #10; raised by the reference device on a page-mode write and on a read-mode control byte with no matching pointer
  (R58), and in states no run reaches (log entry 15). Safe. -/
  | deviceUnmodelled (c : Cause)
  /-- R108 #11; raised by the first step under a status table that breaks R74. Safe. -/
  | configUnmodelled
deriving DecidableEq, Repr, Inhabited

/-- FAULTED's values (R33, R109): a fault, or a refusal, which "has the same effect and is kept apart only by its kind". -/
inductive Stop where
  | fault (f : Fault)
  | refusal (r : Refusal)
deriving DecidableEq, Repr, Inhabited

/-- One line of the host's program (R77). DESIGN CHOICE: held as data (log entry 5). -/
inductive HostLine where
  /-- A mnemonic line, `PR p` or `PW p, v`. -/
  | xfer (t : Transfer)
  /-- `WAIT p = v`: the host holds until a read of port p returns v; each poll is a PortRead of p. -/
  | wait (p : Port) (v : Word)
  /-- `if <the last value read> = v: PR p`, the conditional read of R78's `readByte(address)`. -/
  | readIf (v : Word) (p : Port)
deriving DecidableEq, Repr, Inhabited

/-- Cells of byte storage: (index, byte) pairs, indices strictly rising. -/
abbrev Cells := List Host.Cell

/-- The reference EEPROM (R51). -/
structure Device where
  /-- MEM[0..2047]; a byte that is not listed reads as `Memory.blank`. -/
  mem : Cells
  ptr : Option EAddr
  blk : Option (BitVec 3)
  wst : DevPhase
  wpend : Option Byte
deriving DecidableEq, Repr, Inhabited

/-- The state of the block, of the device, and of the model's inputs. `none` is the spec's own value (R10). -/
structure State where
  /-- The parameters of R8; no step changes them. -/
  cfg : Config
  /-- EN, R17. -/
  en : Bool
  /-- DIV, R18. -/
  div : Byte
  /-- OWNADDR, R19. -/
  ownaddr : Byte
  /-- READY, R20. -/
  ready : Bool
  /-- STATUS_RAW, R21. -/
  statusRaw : Option Byte
  /-- DATA, R24. -/
  data : Option Byte
  /-- PHASE, R25. -/
  phase : Phase
  /-- BUSY, R26. -/
  busy : Bool
  /-- PEND, R26. -/
  pend : Option Pending
  /-- SEQ_READY, R27. -/
  seqReady : Bool
  /-- RESULT, R28. -/
  result : Option Result
  /-- RDATA, R29. -/
  rdata : Option Byte
  /-- BUF, R30: an element that is not listed is none. -/
  buf : Cells
  /-- SEQ_OP, R31: the running command with its operands (DEDUCED, log entry 13). -/
  seqOp : Option SeqCmd
  /-- SEQ_PC, R31. -/
  seqPc : SeqPc
  /-- The model's own (DEDUCED, log entry 11): the command of the step SEQ_PC names is issued and its check is to come, R95. -/
  seqIssued : Bool
  /-- SEQ_ADDR, R31. -/
  seqAddr : Option LAddr
  /-- SEQ_DATA, R31. -/
  seqData : Option Byte
  /-- SEQ_BASE, R31. -/
  seqBase : Option LAddr
  /-- SEQ_N, R31. -/
  seqN : Option Byte
  /-- SEQ_I, R31. -/
  seqI : Option (BitVec 9)
  /-- SEQ_R, R31. -/
  seqR : Option Result
  /-- SEQ_RD, R31. -/
  seqRd : Option Byte
  /-- TRACE, R32, oldest event first. -/
  trace : List BusEvent
  /-- FAULTED, R33. -/
  faulted : Option Stop
  /-- The external device, R51. -/
  dev : Device
  /-- The model's own: the host's program lines still to run, oldest first (log entry 5). -/
  host : List HostLine
  /-- The model's own: what the host's port reads have returned, oldest first (log entry 6). -/
  hostReads : List (Port × Word)
  /-- The model's own: the input script of turns, next first (log entry 1). -/
  turns : List Agent
  /-- The model's own: the input script of bus answers, next first (log entry 2). -/
  answers : List BusAnswer
  /-- The model's own: how many free values have been drawn (log entries 1, 2). -/
  drawn : Nat
deriving DecidableEq, Repr

/-- The device at the start of a run (R51, R123), with the given contents MEM0. -/
def Device.launch (mem0 : Cells) : Device where
  mem := mem0
  ptr := none
  blk := none
  wst := .idle
  wpend := none

/-- The start of a run under the parameters cfg with device contents MEM0: the reset values of R122 and the device of R123. -/
def State.launch (cfg : Config) (mem0 : Cells) : State where
  cfg := cfg
  en := false
  div := 0x00#8
  ownaddr := 0x00#8
  ready := false
  statusRaw := none
  data := none
  phase := .idle
  busy := false
  pend := none
  seqReady := true
  result := none
  rdata := none
  buf := []
  seqOp := none
  seqPc := .idle
  seqIssued := false
  seqAddr := none
  seqData := none
  seqBase := none
  seqN := none
  seqI := none
  seqR := none
  seqRd := none
  trace := []
  faulted := none
  dev := Device.launch mem0
  host := []
  hostReads := []
  turns := []
  answers := []
  drawn := 0

/-- The parameters State.reset takes: the default status table (R73), STRICT_ARRAY false (R102), and DEVICE_MODE ORACLE, which
the spec leaves OPEN (DESIGN CHOICE, log entry 8). -/
def resetConfig : Config where
  sc := StatusTable.default
  mode := .oracle
  strictArray := false

/-- The machine right after reset (R122). MEM0 is OPEN in the spec; here no byte is listed (DESIGN CHOICE, log entry 9). -/
def State.reset : State := State.launch resetConfig []

end Sys2Proof.Machine
end

