-- ==== Sys2Proof/Machine/Ops.lean ====
section
/-! DEFINITION. The named operations over the state: cells (MEM and BUF), raising a fault (spec/60_exceptions.md R109), the
frame every agent's step runs in, the inputs, and TRACE. -/

namespace Sys2Proof.Machine

/-! ### Cells: byte storage in one canonical form -/

/-- The byte listed at a, if one is. -/
def cellGet (a : Nat) : Cells → Option Byte
  | [] => none
  | (b, v) :: rest => if a = b then some v else cellGet a rest

/-- List byte v at a, in its place. -/
def cellPut (a : Nat) (v : Byte) : Cells → Cells
  | [] => [(a, v)]
  | (b, w) :: rest =>
    if a < b then (a, v) :: (b, w) :: rest
    else if a = b then (a, v) :: rest
    else (b, w) :: cellPut a v rest

/-- List nothing at a. -/
def cellDrop (a : Nat) : Cells → Cells
  | [] => []
  | (b, w) :: rest => if a = b then rest else (b, w) :: cellDrop a rest

/-- The indices rise strictly. -/
def cellSorted : Cells → Bool
  | [] => true
  | [_] => true
  | (a, _) :: (b, w) :: rest => decide (a < b) && cellSorted ((b, w) :: rest)

/-- What a byte of MEM that is not listed reads as. DESIGN CHOICE: the spec leaves MEM0 OPEN (R8); unsafe for a claim about
State.reset's contents (log entry 9). -/
def Memory.blank : Byte := 0x00#8

/-- MemRead(a, 1), R11. -/
def Memory.read (a : EAddr) (m : Cells) : Byte := (cellGet a.toNat m).getD Memory.blank

/-- MemWrite(a, 1, v), R11. -/
def Memory.write (a : EAddr) (v : Byte) (m : Cells) : Cells :=
  if v = Memory.blank then cellDrop a.toNat m else cellPut a.toNat v m

/-- MEM's canonical form: addresses rising, below 2048, none listed with the byte an unlisted address reads as. -/
def Memory.wf (m : Cells) : Bool :=
  cellSorted m && m.all (fun c => decide (c.1 < 2048) && decide (c.2 ≠ Memory.blank))

/-- BUF[i], R30. -/
def bufGet (i : Byte) (b : Cells) : Option Byte := cellGet i.toNat b

/-- BUF[i] <- v, R30. -/
def bufSet (i : Byte) (v : Option Byte) (b : Cells) : Cells :=
  match v with
  | none => cellDrop i.toNat b
  | some x => cellPut i.toNat x b

/-- BUF's canonical form: indices rising, below 256. -/
def bufWf (b : Cells) : Bool := cellSorted b && b.all (fun c => decide (c.1 < 256))

/-! ### Faults (R109) -/

/-- `raise Fault(reason)`: FAULTED <- reason, and nothing else changes. -/
def State.raise (why : Stop) (s : State) : State := { s with faulted := some why }

/-- What a machine that can take no ordinary step answers. FAULTED is not none: no agent has a step (R109), so the machine
stops with the recorded reason. A status table that breaks R74: the first step raises CONFIG_UNMODELLED (log entry 16). -/
def stopped (s : State) : Option (Host.Outcome State Fault Refusal) :=
  match s.faulted with
  | some (.fault f) => some (.fault f)
  | some (.refusal r) => some (.refused r)
  | none => if s.cfg.sc.legal then none else some (.next (s.raise (.refusal .configUnmodelled)))

/-- The end of a step: the new state, or the state before it with the fault raised, so that faults are precise (R109). -/
def settle (s : State) : Except Stop State → State
  | .ok t => t
  | .error why => s.raise why

/-- One step of an agent: f's effect, taken whole or not at all. -/
def act (f : State → Except Stop State) (s : State) : Host.Outcome State Fault Refusal :=
  match stopped s with
  | some o => o
  | none => .next (settle s (f s))

/-- A read of a value that may be none, as an operand or through a port: none raises READ_UNWRITTEN (R10, R35, R90, R91, R100,
R108 #7). For an operand other than a BUF element at WA1 it arises in no run (log entry 14). -/
def needed {α β : Type} (c : Cause) (v : Option α) (k : α → Except Stop β) : Except Stop β :=
  match v with
  | some x => k x
  | none => .error (.fault (.readUnwritten c))

/-! ### Inputs and observations -/

/-- The agent that moves next: the head of the input script, or a free value where the script is used up (R112). -/
def State.nextAgent (s : State) : Agent :=
  match s.turns with
  | g :: _ => g
  | [] => Config.freeTurn s.drawn

/-- The state with that turn used up. -/
def State.useTurn (s : State) : State :=
  match s.turns with
  | _ :: rest => { s with turns := rest }
  | [] => { s with drawn := s.drawn + 1 }

/-- The environment's draws for a completion: the head of the input script, or a free value (R82). -/
def State.nextAnswer (s : State) : BusAnswer :=
  match s.answers with
  | a :: _ => a
  | [] => Config.freeAnswer s.drawn

/-- The state with those draws used up. -/
def State.useAnswer (s : State) : State :=
  match s.answers with
  | _ :: rest => { s with answers := rest }
  | [] => { s with drawn := s.drawn + 1 }

/-- emit(e), R11: append to TRACE. -/
def State.emit (e : BusEvent) (s : State) : State := { s with trace := s.trace ++ [e] }

/-- The value v of port p reaches the host (R69). -/
def State.deliver (p : Port) (v : Word) (s : State) : State := { s with hostReads := s.hostReads ++ [(p, v)] }

/-- The last value a port read returned. -/
def State.lastRead (s : State) : Option Word := s.hostReads.getLast?.map Prod.snd

end Sys2Proof.Machine
end

