-- ==== Sys2Proof/Machine/Operands.lean ====
section
/-! DEFINITION. Operand assembly: the bus bytes of a logical address (spec/20_memory.md R42 to R44, spec/30_encoding.md R70,
R71), the array element's address (R49, R75), and the zero extension of a port read (R16). -/

namespace Sys2Proof.Machine

/-- The direction of a control byte (R7): RW_WRITE is 0, RW_READ is 1. -/
inductive Direction where
  | write
  | read
deriving DecidableEq, Repr, Inhabited

/-- Bit 0 of a control byte. -/
def Direction.bit : Direction → Byte
  | .write => 0x00#8
  | .read => 0x01#8

/-- R43: 0xA0 | ((a & 0x0700) >> 7) | rw. -/
def controlByte (a : LAddr) (rw : Direction) : Byte :=
  0xA0#8 ||| ((a &&& 0x0700#16) >>> 7).setWidth 8 ||| rw.bit

/-- R44: the bus device address of a control byte, ctl[7:1]. -/
def busAddress (ctl : Byte) : BitVec 7 := ctl.extractLsb' 1 7

/-- R71: the word address byte a[7:0]. -/
def wordAddress (a : LAddr) : Byte := a.extractLsb' 0 8

/-- R42: the effective device address a[10:0]. -/
def effective (a : LAddr) : EAddr := a.extractLsb' 0 11

/-- R49, R75: the address of array element i, (base + i) mod 2^16. -/
def elementAddr (base : LAddr) (i : BitVec 9) : LAddr := base + i.setWidth 16

/-- R16: a register of up to 32 bits zero-extended. -/
def zext32 {n : Nat} (v : BitVec n) : Word := v.setWidth 32

/-- A flag as a port value. -/
def flagValue (b : Bool) : Word := if b then 1#32 else 0#32

/-- R28: 0 = Success, 1 = Error. -/
def resultValue : Result → Word
  | .success => 0#32
  | .error => 1#32

end Sys2Proof.Machine
end

