-- ==== Sys2Proof/Machine/Flags.lean ====
section
/-! DEFINITION. The flag and status computations: the masked status (spec/10_state.md R22), the legality table
(spec/40_bus_primitives.md R81), the flags a started phase clears and a completed one sets (R80, R82). -/

namespace Sys2Proof.Machine

/-- R22: STATUS = STATUS_RAW & 0xF8. -/
def maskStatus (raw : Byte) : Byte := raw &&& 0xF8#8

/-- R81: the legality table. INIT does not depend on PHASE. -/
def legalIn : EngineCmd → Phase → Bool
  | .init _ _, _ => true
  | .start, .mr => false
  | .start, _ => true
  | .stop, .addr => true
  | .stop, .mt => true
  | .stop, .hold => true
  | .stop, _ => false
  | .write _, .addr => true
  | .write _, .mt => true
  | .write _, _ => false
  | .readAck, .mr => true
  | .readAck, _ => false
  | .readNack, .mr => true
  | .readNack, _ => false

/-- The flag part of the issue of START, WRITE, READ_ACK and READ_NACK (R85, R87 to R89). -/
def State.beginPhase (c : Pending) (s : State) : State :=
  { s with busy := true, pend := some c, ready := false, statusRaw := none }

/-- The tail of R82: STATUS_RAW <- SC.n | draw(3); BUSY <- 0; PEND <- none; READY <- 1. -/
def State.finishPhase (n : StatusName) (low : BitVec 3) (s : State) : State :=
  { s with statusRaw := some (s.cfg.sc.code n ||| low.setWidth 8), busy := false, pend := none, ready := true }

/-- R25: BUS_OWNED is PHASE != IDLE. -/
def State.busOwned (s : State) : Bool := s.phase != .idle

end Sys2Proof.Machine
end

