-- ==== Sys2Proof/Machine/Device.lean ====
section
/-! DEFINITION. The reference EEPROM (spec/20_memory.md R51 to R58) and the choice between it and free draws (R59). Where a
rule gives the device's position no case, and no run reaches it, the device refuses (log entry 15). -/

namespace Sys2Proof.Machine

/-- The refusal DEVICE_UNMODELLED (R58, R108). -/
def unmodelled {α : Type} (c : Cause) : Except Stop α := .error (.refusal (.deviceUnmodelled c))

/-- R52: at S, Sr and BERR the transaction is dropped, with an unstopped data byte. -/
def Device.abandon (d : Device) : Device := { d with wst := .idle, wpend := none }

/-- R53: the answer to control byte b, with k the drawn acknowledge bit. -/
def Device.control (c : Cause) (b : Byte) (k : AckBit) (d : Device) : Except Stop (AckBit × Device) :=
  if b.extractLsb' 4 4 ≠ 0xA#4 then .ok (.nack, { d with wst := .skip })
  else match k with
  | .nack => .ok (.nack, { d with wst := .skip })
  | .ack =>
    if b.extractLsb' 0 1 = 0#1 then .ok (.ack, { d with wst := .wAddr, blk := some (b.extractLsb' 1 3) })
    else match d.ptr with
    | none => unmodelled c
    | some ptr => if ptr.extractLsb' 8 3 ≠ b.extractLsb' 1 3 then unmodelled c else .ok (.ack, { d with wst := .rd })

/-- R54: the answer to byte b of a write transaction, with k the drawn acknowledge bit. -/
def Device.writeByte (c : Cause) (b : Byte) (k : AckBit) (d : Device) : Except Stop (AckBit × Device) :=
  match d.wst with
  | .wAddr =>
    match k with
    | .ack => needed c d.blk fun blk => .ok (.ack, { d with ptr := some (blk ++ b), wst := .wData })
    | .nack => .ok (.nack, { d with wst := .skip })
  | .wData =>
    match k with
    | .ack => .ok (.ack, { d with wpend := some b, wst := .wFull })
    | .nack => .ok (.nack, { d with wst := .skip })
  | .wFull => unmodelled c
  | .idle => unmodelled c
  | .rd => unmodelled c
  | .skip => unmodelled c

/-- R57: the byte the device sends, and its pointer moves on, (PTR + 1) mod 2048. -/
def Device.send (c : Cause) (d : Device) : Except Stop (Byte × Device) :=
  match d.wst with
  | .rd => needed c d.ptr fun ptr => .ok (Memory.read ptr d.mem, { d with ptr := some (ptr + 1#11) })
  | .idle => unmodelled c
  | .wAddr => unmodelled c
  | .wData => unmodelled c
  | .wFull => unmodelled c
  | .skip => unmodelled c

/-- R55, R56: the stop condition commits a full write, and in every case ends the transaction. -/
def Device.stopCondition (c : Cause) (d : Device) : Except Stop Device :=
  match d.wst with
  | .wFull =>
    needed c d.ptr fun ptr => needed c d.wpend fun v =>
      .ok { d with mem := Memory.write ptr v d.mem, ptr := none, wpend := none, wst := .idle }
  | .idle => .ok { d with wst := .idle }
  | .wAddr => .ok { d with wst := .idle }
  | .wData => .ok { d with wst := .idle }
  | .rd => .ok { d with wst := .idle }
  | .skip => .ok { d with wst := .idle }

/-! ### The remote side of the bus, by DEVICE_MODE -/

/-- The device sees S, Sr or BERR. -/
def State.remoteAbandon (s : State) : State :=
  match s.cfg.mode with
  | .oracle => s
  | .ref => { s with dev := s.dev.abandon }

/-- R87's answer(b): env.ack() in mode ORACLE; R53 in PHASE ADDR and R54 in PHASE MT in mode REF. -/
def State.remoteAnswer (c : Cause) (b : Byte) (k : AckBit) (s : State) : Except Stop (AckBit × State) :=
  match s.cfg.mode with
  | .oracle => .ok (k, s)
  | .ref =>
    match (if s.phase = .addr then s.dev.control c b k else s.dev.writeByte c b k) with
    | .ok (r, d) => .ok (r, { s with dev := d })
    | .error e => .error e

/-- R88's rx(): env.rx() in mode ORACLE, the device's byte in mode REF. -/
def State.remoteByte (c : Cause) (drawn : Byte) (s : State) : Except Stop (Byte × State) :=
  match s.cfg.mode with
  | .oracle => .ok (drawn, s)
  | .ref =>
    match s.dev.send c with
    | .ok (v, d) => .ok (v, { s with dev := d })
    | .error e => .error e

/-- The device sees P. -/
def State.remoteStop (c : Cause) (s : State) : Except Stop State :=
  match s.cfg.mode with
  | .oracle => .ok s
  | .ref =>
    match s.dev.stopCondition c with
    | .ok d => .ok { s with dev := d }
    | .error e => .error e

end Sys2Proof.Machine
end

