-- ==== Sys2Proof/Machine/Engine.lean ====
section
/-! DEFINITION. The bus master engine (spec/40_bus_primitives.md R80 to R89): the issue of a command by the host or the
sequencer, the completion of a phase by the bus environment, and the meanings of the six engine commands. -/

namespace Sys2Proof.Machine

/-! ### Issue (R80) -/

/-- The checks of R80 after decoding, in its order: the first fault that applies. -/
def issueFault (c : EngineCmd) (s : State) : Option Fault :=
  match c with
  | .init div own => if s.en then some (.reinit (.command (encodeEngine (.init div own)))) else none
  | c =>
    if !s.en then some (.notInitialised (.command (encodeEngine c)))
    else if s.busy then some (.cmdWhileBusy (.command (encodeEngine c)))
    else if !legalIn c s.phase then some (.outOfOrder (.command (encodeEngine c)))
    else none

/-- R84: INIT. -/
def State.initEngine (div own : Byte) (s : State) : State :=
  { s with div := div, ownaddr := own, en := true, phase := .idle, statusRaw := none }

/-- R86: STOP takes effect at issue; it never raises READY (UNVERIFIED: the spec's own decision D11; log entry 24). -/
def State.stopEngine (s : State) : State :=
  { s.emit .p with phase := .idle, ready := false, statusRaw := none }

/-- The issue part of each command's rule (R84 to R89). -/
def issueEffect (c : EngineCmd) (s : State) : Except Stop State :=
  match c with
  | .init div own => .ok (s.initEngine div own)
  | .start => .ok (s.beginPhase .start)
  | .stop => s.stopEngine.remoteStop (.command (encodeEngine .stop))
  | .write b => .ok ({ s with data := some b }.beginPhase (.write b))
  | .readAck => .ok ({ s with data := none }.beginPhase .readAck)
  | .readNack => .ok ({ s with data := none }.beginPhase .readNack)

/-- Issue(w) of R80 without the host's own check. -/
def issue (c : EngineCmd) (s : State) : Except Stop State :=
  match issueFault c s with
  | some f => .error (.fault f)
  | none => issueEffect c s

/-- The host's check of R80 and R92 before a command or a BUF write: it may only read while the sequencer runs. The fault
records c, the caller's choice for a write of CMD (log entry 28). -/
def hostMayWrite (c : Cause) (f : State → Except Stop State) (s : State) : Except Stop State :=
  if s.seqReady then f s else .error (.fault (.hostWhileSeqBusy c))

/-- A host write of an engine command to CMD. DESIGN CHOICE: HOST_WHILE_SEQ_BUSY records the command word and not port 0x000
(log entry 28). -/
def hostIssue (c : EngineCmd) (s : State) : Except Stop State :=
  hostMayWrite (.command (encodeEngine c)) (issue c) s

/-! ### Completion (R82) -/

/-- The command word of a pending phase, which a fault of its completion records. -/
def Pending.word : Pending → Word
  | .start => encodeEngine .start
  | .write b => encodeEngine (.write b)
  | .readAck => encodeEngine .readAck
  | .readNack => encodeEngine .readNack

/-- R83: a bus error. -/
def State.busError (s : State) : State := { s.emit .berr with phase := .idle }.remoteAbandon

/-- R85: the start condition is on the bus. -/
def completeStart (s : State) : StatusName × State :=
  if s.phase = .idle then (.start, { s.emit .s with phase := .addr }.remoteAbandon)
  else (.repeatedStart, { s.emit .sr with phase := .addr }.remoteAbandon)

/-- R87: the status name after byte b was answered k. -/
def writeStatus (ph : Phase) (b : Byte) (k : AckBit) : StatusName :=
  if ph = .addr then
    if b.extractLsb' 0 1 = 0#1 then (match k with | .ack => .addressAckW | .nack => .addressNackW)
    else (match k with | .ack => .addressAckR | .nack => .addressNackR)
  else (match k with | .ack => .dataAck | .nack => .dataTxNack)

/-- R87: the PHASE after byte b was answered k. -/
def writePhase (ph : Phase) (b : Byte) (k : AckBit) : Phase :=
  match k with
  | .nack => .hold
  | .ack => if ph = .addr ∧ b.extractLsb' 0 1 ≠ 0#1 then .mr else .mt

/-- R87: the byte is on the bus. -/
def completeWrite (b : Byte) (a : BusAnswer) (s : State) : Except Stop (StatusName × State) :=
  match s.remoteAnswer (.command (encodeEngine (.write b))) b a.ack with
  | .error e => .error e
  | .ok (k, t) => .ok (writeStatus s.phase b k, { t.emit (.tx b k) with phase := writePhase s.phase b k })

/-- R88, R89: a byte is received and answered k; the command chose k and the status at issue. -/
def completeRead (c : Pending) (k : AckBit) (n : StatusName) (after : Phase) (a : BusAnswer) (s : State) :
    Except Stop (StatusName × State) :=
  match s.remoteByte (.command c.word) a.rx with
  | .error e => .error e
  | .ok (v, t) => .ok (n, { t.emit (.rx v k) with data := some v, phase := after })

/-- The completion part of PEND's rule, or the bus error of R83. -/
def completion (c : Pending) (a : BusAnswer) (s : State) : Except Stop (StatusName × State) :=
  if a.berr then .ok (.busError, s.busError)
  else match c with
  | .start => .ok (completeStart s)
  | .write b => completeWrite b a s
  | .readAck => completeRead .readAck .ack .dataRxAck .mr a s
  | .readNack => completeRead .readNack .nack .dataNack .hold a s

/-- Complete(PEND), R82. -/
def complete (c : Pending) (s : State) : Except Stop State :=
  match completion c s.nextAnswer s.useAnswer with
  | .error e => .error e
  | .ok (n, t) => .ok (t.finishPhase n s.nextAnswer.low)

/-! ### The meanings of the engine commands -/

/-- INIT, R84. -/
def execInit (div own : Byte) (s : State) : Host.Outcome State Fault Refusal := act (hostIssue (.init div own)) s

/-- START, R85. -/
def execStart (s : State) : Host.Outcome State Fault Refusal := act (hostIssue .start) s

/-- STOP, R86. -/
def execStop (s : State) : Host.Outcome State Fault Refusal := act (hostIssue .stop) s

/-- WRITE, R87. -/
def execWrite (data : Byte) (s : State) : Host.Outcome State Fault Refusal := act (hostIssue (.write data)) s

/-- READ_ACK, R88. -/
def execReadAck (s : State) : Host.Outcome State Fault Refusal := act (hostIssue .readAck) s

/-- READ_NACK, R89. -/
def execReadNack (s : State) : Host.Outcome State Fault Refusal := act (hostIssue .readNack) s

end Sys2Proof.Machine
end

