-- ==== Sys2Proof/Machine/Sequencer.lean ====
section
/-! DEFINITION. The EEPROM sequencer (spec/41_eeprom_sequencer.md R94 to R103): the issue of an operation by the host, its
micro-steps, and the meanings of the four sequencer commands. One label is one step; a step with a command is two, its issue
and its check (R95; log entries 11, 12). -/

namespace Sys2Proof.Machine

/-! ### Issue (R94) -/

/-- The checks of R94 after decoding, in its order. -/
def seqFault (c : SeqCmd) (s : State) : Option Fault :=
  if !s.en then some (.notInitialised (.command (encodeSeq c)))
  else if s.busy then some (.cmdWhileBusy (.command (encodeSeq c)))
  else none

/-- R94's common part. -/
def State.beginOp (c : SeqCmd) (s : State) : State :=
  { s with seqReady := false, seqOp := some c, result := none, seqIssued := false }

/-- The operand load of R97, R98, R100 (WA0), R101 (RA0), and the first step. -/
def State.loadOp (c : SeqCmd) (s : State) : State :=
  match c with
  | .writeByte a d => { s with seqAddr := some a, seqData := some d, seqPc := .wb1 }
  | .readByte a => { s with rdata := none, seqAddr := some a, seqRd := none, seqPc := .rb1 }
  | .writeArray a n => { s with seqBase := some a, seqN := some n, seqI := some 0#9, seqPc := .wa1 }
  | .readArray a n => { s with seqBase := some a, seqN := some n, seqI := some 0#9, seqPc := .ra1 }

/-- The issue of a sequencer command without the host's own check. -/
def seqIssue (c : SeqCmd) (s : State) : Except Stop State :=
  match seqFault c s with
  | some f => .error (.fault f)
  | none => .ok ((s.beginOp c).loadOp c)

/-- A host write of a sequencer command to CMD. DESIGN CHOICE: HOST_WHILE_SEQ_BUSY records the command word and not port 0x000
(log entry 28). -/
def hostSeqIssue (c : SeqCmd) (s : State) : Except Stop State :=
  hostMayWrite (.command (encodeSeq c)) (seqIssue c) s

/-! ### Micro-steps (R95) -/

/-- SEQ_PC <- l. -/
def State.goto (l : SeqPc) (s : State) : State := { s with seqPc := l }

/-- The check of `Prim(c) expect n`: STATUS equals SC.n, and the pass runs, or SEQ_PC <- ERR. -/
def primCheck (n : StatusName) (pass : State → State) (s : State) : Except Stop State :=
  needed (.port 0x002#9) s.statusRaw fun raw =>
    if maskStatus raw = s.cfg.sc.code n then .ok (pass { s with seqIssued := false })
    else .ok ({ s with seqIssued := false }.goto .err)

/-- `Prim(c) expect n`: the issue; then the hold until READY = 1; then the check. -/
def prim (c : EngineCmd) (n : StatusName) (pass : State → State) (s : State) : Except Stop State :=
  if s.seqIssued then
    if s.ready then primCheck n pass s else .ok s
  else match issue c s with
  | .error e => .error e
  | .ok t => .ok { t with seqIssued := true }

/-- `Prim(STOP)`: issued and passed, with no wait and no check. -/
def primStop (l : SeqPc) (s : State) : Except Stop State :=
  match issue .stop s with
  | .error e => .error e
  | .ok t => .ok (t.goto l)

/-- END of R96, R100, R101: the operation is over. -/
def State.endOp (s : State) : State := { s with seqOp := none, seqPc := .idle, seqReady := true }

/-- BUF[SEQ_I], SEQ_I < 256. -/
def seqElement (c : Cause) (i : BitVec 9) (s : State) : Except Stop (Option Byte) :=
  if i.toNat < 256 then .ok (bufGet (i.setWidth 8) s.buf) else .error (.fault (.noSuchElement c))

/-- R101: BUF[SEQ_I] <- (SEQ_R = Success ? SEQ_RD : none). -/
def storeElement (c : Cause) (r : Result) (i : BitVec 9) (s : State) : Except Stop State :=
  if i.toNat < 256 then
    .ok { s with buf := bufSet (i.setWidth 8) (match r with | .success => s.seqRd | .error => none) s.buf }
  else .error (.fault (.noSuchElement c))

/-- R96: SEQ_R <- r, and the single-byte micro-program ends: the operation of a single-byte command, or the return to the
array loop, where R101 stores the element read. -/
def finishByte (op : SeqCmd) (r : Result) (s : State) : Except Stop State :=
  match op with
  | .writeByte _ _ => .ok { s with seqR := some r, result := some r }.endOp
  | .readByte _ =>
    .ok { s with seqR := some r, result := some r,
                 rdata := (match r with | .success => s.seqRd | .error => s.rdata) }.endOp
  | .writeArray _ _ => .ok ({ s with seqR := some r }.goto .wa2)
  | .readArray _ _ =>
    needed (.command (encodeSeq op)) s.seqI fun i =>
      match storeElement (.command (encodeSeq op)) r i s with
      | .error e => .error e
      | .ok t => .ok ({ t with seqR := some r }.goto .ra2)

/-- WA1 of R100. -/
def writeLoopHead (op : SeqCmd) (s : State) : Except Stop State :=
  needed (.command (encodeSeq op)) s.seqI fun i =>
  needed (.command (encodeSeq op)) s.seqN fun n =>
    if i = n.setWidth 9 then .ok (s.goto .wa4)
    else
      match seqElement (.command (encodeSeq op)) i s with
      | .error e => .error e
      | .ok v =>
        needed (.command (encodeSeq op)) v fun b =>
        needed (.command (encodeSeq op)) s.seqBase fun base =>
          .ok ({ s with seqAddr := some (elementAddr base i), seqData := some b }.goto .wb1)

/-- RA1 of R101. -/
def readLoopHead (op : SeqCmd) (s : State) : Except Stop State :=
  needed (.command (encodeSeq op)) s.seqI fun i =>
  needed (.command (encodeSeq op)) s.seqN fun n =>
    if i = n.setWidth 9 then .ok (s.goto .ra4)
    else
      needed (.command (encodeSeq op)) s.seqBase fun base =>
        .ok ({ s with seqAddr := some (elementAddr base i), seqRd := none }.goto .rb1)

/-- WA3 and RA3: the strict abort of R102, or the next element at the loop head l. DESIGN CHOICE: a SEQ_R that is none is
not Error in this test, and no operand of R10; no run reaches WA3 or RA3 with it (log entry 29). -/
def loopNext (op : SeqCmd) (l : SeqPc) (s : State) : Except Stop State :=
  if s.cfg.strictArray ∧ s.seqR = some .error then .ok ({ s with result := some .error }.goto .seqEnd)
  else needed (.command (encodeSeq op)) s.seqI fun i => .ok ({ s with seqI := some (i + 1#9) }.goto l)

/-- WA4 and RA4: RESULT <- (STRICT_ARRAY ? Success : none). -/
def loopEnd (s : State) : State :=
  { s with result := if s.cfg.strictArray then some .success else none }.goto .seqEnd

/-- WA2 and RA2: the settle delay (R103), one step. -/
def settleDelay (l : SeqPc) (s : State) : State := (s.emit .delay).goto l

/-- One micro-step of the running operation op, by SEQ_PC. -/
def seqStep (op : SeqCmd) (s : State) : Except Stop State :=
  match s.seqPc with
  | .idle => .ok s
  | .wb1 => prim .start .start (State.goto .wb2) s
  | .wb2 =>
    needed (.command (encodeSeq op)) s.seqAddr fun a =>
      prim (.write (controlByte a .write)) .addressAckW (State.goto .wb3) s
  | .wb3 =>
    needed (.command (encodeSeq op)) s.seqAddr fun a =>
      prim (.write (wordAddress a)) .dataAck (State.goto .wb4) s
  | .wb4 =>
    needed (.command (encodeSeq op)) s.seqData fun d =>
      prim (.write d) .dataAck (State.goto .wb5) s
  | .wb5 => primStop .wb6 s
  | .wb6 => finishByte op .success s
  | .rb1 => prim .start .start (State.goto .rb2) s
  | .rb2 =>
    needed (.command (encodeSeq op)) s.seqAddr fun a =>
      prim (.write (controlByte a .write)) .addressAckW (State.goto .rb3) s
  | .rb3 =>
    needed (.command (encodeSeq op)) s.seqAddr fun a =>
      prim (.write (wordAddress a)) .dataAck (State.goto .rb4) s
  | .rb4 => prim .start .repeatedStart (State.goto .rb5) s
  | .rb5 =>
    needed (.command (encodeSeq op)) s.seqAddr fun a =>
      prim (.write (controlByte a .read)) .addressAckR (State.goto .rb6) s
  | .rb6 => prim .readNack .dataNack (fun t => { t with seqRd := t.data }.goto .rb7) s
  | .rb7 => primStop .rb8 s
  | .rb8 => finishByte op .success s
  | .err => finishByte op .error s
  | .wa1 => writeLoopHead op s
  | .wa2 => .ok (settleDelay .wa3 s)
  | .wa3 => loopNext op .wa1 s
  | .wa4 => .ok (loopEnd s)
  | .ra1 => readLoopHead op s
  | .ra2 => .ok (settleDelay .ra3 s)
  | .ra3 => loopNext op .ra1 s
  | .ra4 => .ok (loopEnd s)
  | .seqEnd => .ok s.endOp

/-! ### The meanings of the sequencer commands -/

/-- EE_WRITE_BYTE, R97. -/
def execEeWriteByte (addr : LAddr) (data : Byte) (s : State) : Host.Outcome State Fault Refusal :=
  act (hostSeqIssue (.writeByte addr data)) s

/-- EE_READ_BYTE, R98. -/
def execEeReadByte (addr : LAddr) (s : State) : Host.Outcome State Fault Refusal :=
  act (hostSeqIssue (.readByte addr)) s

/-- EE_WRITE_ARRAY, R100. -/
def execEeWriteArray (addr : LAddr) (count : Byte) (s : State) : Host.Outcome State Fault Refusal :=
  act (hostSeqIssue (.writeArray addr count)) s

/-- EE_READ_ARRAY, R101. -/
def execEeReadArray (addr : LAddr) (count : Byte) (s : State) : Host.Outcome State Fault Refusal :=
  act (hostSeqIssue (.readArray addr count)) s

end Sys2Proof.Machine
end

