-- ==== Sys2Proof/Machine/Ports.lean ====
section
/-! DEFINITION. The port transactions (spec/40_bus_primitives.md R90 to R92): a port read has no effect but the value that
reaches the host (spec/10_state.md R35); a port write issues a command or writes BUF. -/

namespace Sys2Proof.Machine

/-- A port read of a register whose value is v, none if it holds none (R91, R10). -/
def portRead (p : Port) (v : Option Word) (s : State) : Except Stop State :=
  needed (.port p) v fun x => .ok (s.deliver p x)

/-- GET_STATUS, R90. -/
def execGetStatus (s : State) : Host.Outcome State Fault Refusal :=
  act (portRead 0x002#9 (s.statusRaw.map fun raw => zext32 (maskStatus raw))) s

/-- PortRead(0x000), R34, R91: CMD reads as zero. -/
def execPrCmd (s : State) : Host.Outcome State Fault Refusal := act (portRead 0x000#9 (some 0#32)) s

/-- PortRead(0x001), R91. -/
def execPrStatusRaw (s : State) : Host.Outcome State Fault Refusal := act (portRead 0x001#9 (s.statusRaw.map zext32)) s

/-- PortRead(0x003), R91. -/
def execPrReady (s : State) : Host.Outcome State Fault Refusal := act (portRead 0x003#9 (some (flagValue s.ready))) s

/-- PortRead(0x004), R91. -/
def execPrData (s : State) : Host.Outcome State Fault Refusal := act (portRead 0x004#9 (s.data.map zext32)) s

/-- PortRead(0x005), R91. -/
def execPrDiv (s : State) : Host.Outcome State Fault Refusal := act (portRead 0x005#9 (some (zext32 s.div))) s

/-- PortRead(0x006), R91. -/
def execPrOwnaddr (s : State) : Host.Outcome State Fault Refusal := act (portRead 0x006#9 (some (zext32 s.ownaddr))) s

/-- PortRead(0x007), R91. -/
def execPrEn (s : State) : Host.Outcome State Fault Refusal := act (portRead 0x007#9 (some (flagValue s.en))) s

/-- PortRead(0x008), R91. -/
def execPrSeqReady (s : State) : Host.Outcome State Fault Refusal := act (portRead 0x008#9 (some (flagValue s.seqReady))) s

/-- PortRead(0x009), R91: 0 Success, 1 Error. -/
def execPrResult (s : State) : Host.Outcome State Fault Refusal := act (portRead 0x009#9 (s.result.map resultValue)) s

/-- PortRead(0x00A), R91. -/
def execPrRdata (s : State) : Host.Outcome State Fault Refusal := act (portRead 0x00A#9 (s.rdata.map zext32)) s

/-- PortRead(0x100 + i), R91. -/
def execPrBuf (i : Byte) (s : State) : Host.Outcome State Fault Refusal :=
  act (portRead (bufPort i) ((bufGet i s.buf).map zext32)) s

/-- The issue of a decoded command (R92: R80 or R94). -/
def hostCommand : Command → State → Except Stop State
  | .engine c, s => hostIssue c s
  | .sequencer c, s => hostSeqIssue c s

/-- A word that decodes to no command: RESERVED_ENCODING, after the check that the host may write (R80, R92, R110). DESIGN
CHOICE: HOST_WHILE_SEQ_BUSY records the command word and not port 0x000 (log entry 28). -/
def hostReserved (w : Word) (s : State) : Except Stop State :=
  hostMayWrite (.command w) (fun _ => .error (.fault (.reservedEncoding (.command w)))) s

/-- PortWrite(0x000, v), R92. -/
def writeCmd (v : Word) (s : State) : Except Stop State :=
  match readCommand v with
  | .ok c => hostCommand c s
  | .error _ => hostReserved v s

/-- PortWrite(0x000, v), R92. -/
def execPwCmd (v : Word) (s : State) : Host.Outcome State Fault Refusal := act (writeCmd v) s

/-- BUF[i] <- v[7:0], or RESERVED_ENCODING when v[31:8] is not zero (R69, R92). -/
def writeBuf (i : Byte) (v : Word) (s : State) : Except Stop State :=
  if bufValueOk v then .ok { s with buf := bufSet i (some (v.extractLsb' 0 8)) s.buf }
  else .error (.fault (.reservedEncoding (.port (bufPort i))))

/-- PortWrite(0x100 + i, v), R92. -/
def execPwBuf (i : Byte) (v : Word) (s : State) : Host.Outcome State Fault Refusal :=
  act (hostMayWrite (.port (bufPort i)) (writeBuf i v)) s

/-- A transfer that decodes to no instruction takes the fault its rule names (R68, R91, R92). -/
def execRejected (r : Reject) (s : State) : Host.Outcome State Fault Refusal :=
  match r with
  | .reservedEncoding w => act (hostReserved w) s
  | .portUnmapped p => act (fun _ => .error (.fault (.portUnmapped (.port p)))) s
  | .portReadOnly p => act (fun _ => .error (.fault (.portReadOnly (.port p)))) s

end Sys2Proof.Machine
end

