-- ==== Sys2Proof/Machine/Dispatch.lean ====
section
/-! DEFINITION. exec: one arm per instruction, each one direct call of its meaning. -/

namespace Sys2Proof.Machine

def exec (i : Instr) (s : State) : Host.Outcome State Fault Refusal :=
  match i with
  | .init div own => Sys2Proof.Machine.execInit div own s
  | .start => Sys2Proof.Machine.execStart s
  | .stop => Sys2Proof.Machine.execStop s
  | .write data => Sys2Proof.Machine.execWrite data s
  | .readAck => Sys2Proof.Machine.execReadAck s
  | .readNack => Sys2Proof.Machine.execReadNack s
  | .eeWriteByte addr data => Sys2Proof.Machine.execEeWriteByte addr data s
  | .eeReadByte addr => Sys2Proof.Machine.execEeReadByte addr s
  | .eeWriteArray addr count => Sys2Proof.Machine.execEeWriteArray addr count s
  | .eeReadArray addr count => Sys2Proof.Machine.execEeReadArray addr count s
  | .getStatus => Sys2Proof.Machine.execGetStatus s
  | .prCmd => Sys2Proof.Machine.execPrCmd s
  | .prStatusRaw => Sys2Proof.Machine.execPrStatusRaw s
  | .prReady => Sys2Proof.Machine.execPrReady s
  | .prData => Sys2Proof.Machine.execPrData s
  | .prDiv => Sys2Proof.Machine.execPrDiv s
  | .prOwnaddr => Sys2Proof.Machine.execPrOwnaddr s
  | .prEn => Sys2Proof.Machine.execPrEn s
  | .prSeqReady => Sys2Proof.Machine.execPrSeqReady s
  | .prResult => Sys2Proof.Machine.execPrResult s
  | .prRdata => Sys2Proof.Machine.execPrRdata s
  | .prBuf index => Sys2Proof.Machine.execPrBuf index s
  | .pwCmd v => Sys2Proof.Machine.execPwCmd v s
  | .pwBuf index v => Sys2Proof.Machine.execPwBuf index v s

end Sys2Proof.Machine
end

