-- ==== Sys2Proof/Machine/Agents.lean ====
section
/-! DEFINITION. The steps of the three agents that move (spec/00_scope.md R5, spec/60_exceptions.md R112), and how an
instruction is laid before the host (spec/30_encoding.md R69, R77). An agent that holds or has nothing to do passes: only its
turn is used up (R13; log entry 4). -/

namespace Sys2Proof.Machine

/-- The host performs a transfer: the decoded instruction, or the fault of a transfer that decodes to none. -/
def perform (t : Transfer) (s : State) : Host.Outcome State Fault Refusal :=
  match decode t with
  | .ok i => exec i s
  | .error r => execRejected r s

/-- R77: a poll of `WAIT p = v` ends the wait when it returned v; else the line stays. -/
def afterPoll (v : Word) (rest : List HostLine) (o : Host.Outcome State Fault Refusal) :
    Host.Outcome State Fault Refusal :=
  match o with
  | .next t => if t.faulted = none ∧ t.lastRead = some v then .next { t with host := rest } else .next t
  | .fault f => .fault f
  | .refused r => .refused r

/-- A step of the host: its next line. -/
def hostTurn (s : State) : Host.Outcome State Fault Refusal :=
  match s.host with
  | [] => .next s
  | .xfer t :: rest => perform t { s with host := rest }
  | .wait p v :: rest => afterPoll v rest (perform (.portRead p) s)
  | .readIf v p :: rest =>
    if s.lastRead = some v then perform (.portRead p) { s with host := rest } else .next { s with host := rest }

/-- A step of the sequencer: enabled while an operation runs (R27, R31). -/
def sequencerTurn (s : State) : Host.Outcome State Fault Refusal :=
  match s.seqOp with
  | none => .next s
  | some op => if s.seqReady then .next s else act (seqStep op) s

/-- A step of the bus environment: Complete(PEND) while BUSY = 1 (R82). -/
def busTurn (s : State) : Host.Outcome State Fault Refusal :=
  match s.pend with
  | none => .next s
  | some c => if s.busy then act (complete c) s else .next s

/-- A step of agent g. -/
def agentTurn (g : Agent) (s : State) : Host.Outcome State Fault Refusal :=
  match g with
  | .host => hostTurn s
  | .sequencer => sequencerTurn s
  | .bus => busTurn s

/-- One step of the machine: no agent has one once it is stopped (R109); else the agent that moves next has its turn. -/
def machineStep (s : State) : Host.Outcome State Fault Refusal :=
  match stopped s with
  | some o => o
  | none => agentTurn s.nextAgent s.useTurn

/-- Put transfer t at the head of the host's lines and give the host the next turn (log entry 19). -/
def State.offer (t : Transfer) (s : State) : State :=
  { s with host := .xfer t :: s.host, turns := .host :: s.turns }

/-- The same with the transfer given as bits; bits that are no transfer offer nothing. -/
def State.offerWord (nbits w : Nat) (s : State) : State :=
  match tableTransfer nbits w with
  | some t => s.offer t
  | none => s

/-- Load a host program after the lines already there (log entry 19). -/
def State.load (lines : List HostLine) (s : State) : State := { s with host := s.host ++ lines }

end Sys2Proof.Machine
end

