-- ==== Sys2Proof/Machine/Step.lean ====
section
/-! DEFINITION. The step, and the placing of one instruction where the next step runs it. -/

namespace Sys2Proof.Machine

/-- One step of the machine. -/
def step (s : State) : Host.Outcome State Fault Refusal := machineStep s

/-- s with the instruction whose bits are w offered to the host as its next line, and the next turn the host's (log entry 19). -/
def State.withFetchWord (s : State) (nbits w : Nat) : State := s.offerWord nbits w

end Sys2Proof.Machine
end

