-- ==== Sys2Proof/Machine/Pseudo.lean ====
section
/-! DEFINITION. The source's blocking procedures as host program lines (spec/30_encoding.md R78). -/

namespace Sys2Proof.Machine

/-- A mnemonic line (R77). -/
def line (c : Command) : HostLine := .xfer (.command (encodeCommand c))

/-- `WAIT 0x003 = 1`. -/
def waitReady : HostLine := .wait 0x003#9 1#32

/-- `WAIT 0x008 = 1`. -/
def waitSeqReady : HostLine := .wait 0x008#9 1#32

/-- `init(config)`. -/
def pseudoInit (div own : Byte) : List HostLine := [line (.engine (.init div own))]

/-- `start()`. -/
def pseudoStart : List HostLine := [line (.engine .start), waitReady]

/-- `stop()`: no wait. -/
def pseudoStop : List HostLine := [line (.engine .stop)]

/-- Engine `writeByte(data)`. -/
def pseudoWrite (b : Byte) : List HostLine := [line (.engine (.write b)), waitReady]

/-- `readByteAck()`. -/
def pseudoReadAck : List HostLine := [line (.engine .readAck), waitReady, .xfer (.portRead 0x004#9)]

/-- `readByteNack()`. -/
def pseudoReadNack : List HostLine := [line (.engine .readNack), waitReady, .xfer (.portRead 0x004#9)]

/-- `getStatus()`. -/
def pseudoGetStatus : List HostLine := [.xfer (.portRead 0x002#9)]

/-- Storage `writeByte(address, data)`. -/
def pseudoEeWriteByte (a : LAddr) (d : Byte) : List HostLine :=
  [line (.sequencer (.writeByte a d)), waitSeqReady, .xfer (.portRead 0x009#9)]

/-- `readByte(address)`: RDATA is read only if the result was Success. -/
def pseudoEeReadByte (a : LAddr) : List HostLine :=
  [line (.sequencer (.readByte a)), waitSeqReady, .xfer (.portRead 0x009#9), .readIf 0#32 0x00A#9]

/-- The BUF writes of bytes from element i on. -/
def fillBuf : Nat → List Byte → List HostLine
  | _, [] => []
  | i, b :: bs => .xfer (.portWrite (bufPort (BitVec.ofNat 8 i)) (zext32 b)) :: fillBuf (i + 1) bs

/-- `writeArray(start, bytes)`, of at most 255 bytes (R8, COUNT_W). -/
def pseudoEeWriteArray (start : LAddr) (bytes : List Byte) : List HostLine :=
  fillBuf 0 bytes ++ [line (.sequencer (.writeArray start (BitVec.ofNat 8 bytes.length))), waitSeqReady]

/-- The reads of BUF[0..n-1]. -/
def drainBuf (n : Nat) : List HostLine :=
  (List.range n).map fun i => .xfer (.portRead (bufPort (BitVec.ofNat 8 i)))

/-- `readArray(start, n)`. -/
def pseudoEeReadArray (start : LAddr) (n : Byte) : List HostLine :=
  [line (.sequencer (.readArray start n)), waitSeqReady] ++ drainBuf n.toNat

end Sys2Proof.Machine
end

