-- ==== Sys2Proof/Safety.lean ====
section
/-! DEFINITION. What the statements call a good state: the conditions under which a command executes normally, and the
invariants every step keeps (spec/10_state.md R20, R21, R25, R26; spec/20_memory.md R51 to R57; spec/41_eeprom_sequencer.md R95
to R101). -/

namespace Sys2Proof.Machine

/-- The machine can take a step: FAULTED is none (R109) and the status table meets R74. -/
abbrev State.live (s : State) : Prop := s.faulted = none ∧ s.cfg.sc.legal = true

/-- R80, R92, R94: the host may write an engine or sequencer command other than INIT. -/
abbrev State.canCommand (s : State) : Prop := s.live ∧ s.en = true ∧ s.busy = false ∧ s.seqReady = true

/-- The state with fault f raised (R109). -/
def State.faultedBy (f : Fault) (s : State) : State := s.raise (.fault f)

/-- A bus answer with no bus error and an acknowledge: premise NO_BUS_ERROR (R83) and "every bus phase acknowledges" (R59). -/
abbrev cleanAnswer (a : BusAnswer) : Prop := a.berr = false ∧ a.ack = .ack

/-- The engine command of a pending phase. -/
def Pending.cmd : Pending → EngineCmd
  | .start => .start
  | .write b => .write b
  | .readAck => .readAck
  | .readNack => .readNack

/-! ### The engine (R20, R21, R25, R26, R81) -/

/-- What holds of the engine's registers in every state a run reaches: BUSY says whether PEND is a command, READY = 1 implies
BUSY = 0 (R26), a status is held exactly while READY = 1 (R126), the pending command is legal in PHASE (R81), a held status is
a code of R73 but for its low bits, and before INIT nothing has started (R17). -/
structure EngineInv (s : State) : Prop where
  busyPend : s.busy = s.pend.isSome
  readyIdle : s.ready = true → s.busy = false
  readyStatus : s.ready = s.statusRaw.isSome
  pendLegal : ∀ c, s.pend = some c → legalIn c.cmd s.phase = true
  statusCode : ∀ raw, s.statusRaw = some raw → ∃ n, maskStatus raw = s.cfg.sc.code n
  beforeInit : s.en = false → s.ready = false ∧ s.busy = false ∧ s.phase = .idle ∧ s.seqReady = true

/-! ### The device (R51 to R57) -/

/-- MEM is in canonical form, and in mode REF the device's position agrees with the engine's: a master transmitter faces a
device in a write transaction, a master receiver faces one that sends. -/
structure DeviceInv (s : State) : Prop where
  memWf : Memory.wf s.dev.mem = true
  transmitter : s.cfg.mode = .ref → s.phase = .mt → s.dev.wst = .wAddr ∨ s.dev.wst = .wData ∨ s.dev.wst = .wFull
  receiver : s.cfg.mode = .ref → s.phase = .mr → s.dev.wst = .rd
  blkHeld : s.dev.wst = .wAddr → s.dev.blk.isSome = true
  ptrHeld : s.dev.wst = .wData ∨ s.dev.wst = .wFull ∨ s.dev.wst = .rd → s.dev.ptr.isSome = true
  wpendHeld : s.dev.wst = .wFull → s.dev.wpend.isSome = true

/-! ### The sequencer (R94 to R101) -/

/-- A label of the write micro-program (R97). -/
def isWriteLabel : SeqPc → Bool
  | .wb1 | .wb2 | .wb3 | .wb4 | .wb5 | .wb6 => true
  | _ => false

/-- A label of the read micro-program (R98). -/
def isReadLabel : SeqPc → Bool
  | .rb1 | .rb2 | .rb3 | .rb4 | .rb5 | .rb6 | .rb7 | .rb8 => true
  | _ => false

/-- The labels an operation runs through. -/
def labelOf (op : SeqCmd) (l : SeqPc) : Bool :=
  match op with
  | .writeByte _ _ => isWriteLabel l || l == .err
  | .readByte _ => isReadLabel l || l == .err
  | .writeArray _ _ => isWriteLabel l || [.err, .wa1, .wa2, .wa3, .wa4, .seqEnd].contains l
  | .readArray _ _ => isReadLabel l || [.err, .ra1, .ra2, .ra3, .ra4, .seqEnd].contains l

/-- The PHASE each command of a micro-program is issued in, where the checks passed so far imply one (R97, R98). -/
def phaseAt : SeqPc → Option Phase
  | .wb2 => some .addr
  | .wb3 => some .mt
  | .wb4 => some .mt
  | .wb5 => some .mt
  | .rb2 => some .addr
  | .rb3 => some .mt
  | .rb4 => some .mt
  | .rb5 => some .addr
  | .rb6 => some .mr
  | .rb7 => some .hold
  | _ => none

/-- The status a step `Prim(c) expect n` expects, and the label a passed check goes to (R97, R98). -/
def expectAt : SeqPc → Option (StatusName × SeqPc)
  | .wb1 => some (.start, .wb2)
  | .wb2 => some (.addressAckW, .wb3)
  | .wb3 => some (.dataAck, .wb4)
  | .wb4 => some (.dataAck, .wb5)
  | .rb1 => some (.start, .rb2)
  | .rb2 => some (.addressAckW, .rb3)
  | .rb3 => some (.dataAck, .rb4)
  | .rb4 => some (.repeatedStart, .rb5)
  | .rb5 => some (.addressAckR, .rb6)
  | .rb6 => some (.dataNack, .rb7)
  | _ => none

/-- The phase a step's command starts (R97, R98), with the operands the sequencer holds. -/
def startsAt (s : State) : Option Pending :=
  match s.seqPc with
  | .wb1 => some .start
  | .wb2 => s.seqAddr.map fun a => .write (controlByte a .write)
  | .wb3 => s.seqAddr.map fun a => .write (wordAddress a)
  | .wb4 => s.seqData.map fun d => .write d
  | .rb1 => some .start
  | .rb2 => s.seqAddr.map fun a => .write (controlByte a .write)
  | .rb3 => s.seqAddr.map fun a => .write (wordAddress a)
  | .rb4 => some .start
  | .rb5 => s.seqAddr.map fun a => .write (controlByte a .read)
  | .rb6 => some .readNack
  | _ => none

/-- The array registers while op runs: held by an array operation, with SEQ_I at most SEQ_N, below it inside an element, and
equal to it where the loop has run out. -/
def arrayHeld (op : SeqCmd) (s : State) : Prop :=
  match op with
  | .writeByte _ _ => True
  | .readByte _ => True
  | .writeArray _ _ | .readArray _ _ =>
    ∃ base n i, s.seqBase = some base ∧ s.seqN = some n ∧ s.seqI = some i ∧ i.toNat ≤ n.toNat ∧
      (s.seqPc ≠ .wa1 → s.seqPc ≠ .ra1 → s.seqPc ≠ .wa4 → s.seqPc ≠ .ra4 → s.seqPc ≠ .seqEnd → i.toNat < n.toNat) ∧
      (s.seqPc = .wa4 ∨ s.seqPc = .ra4 ∨ (s.seqPc = .seqEnd ∧ s.cfg.strictArray = false) → i.toNat = n.toNat)

/-- What holds while operation op runs. -/
structure RunningInv (op : SeqCmd) (s : State) : Prop where
  label : labelOf op s.seqPc = true
  enabled : s.en = true
  addrHeld : isWriteLabel s.seqPc = true ∨ isReadLabel s.seqPc = true → s.seqAddr.isSome = true
  dataHeld : isWriteLabel s.seqPc = true → s.seqData.isSome = true
  arrays : arrayHeld op s
  notIssued : s.seqIssued = false → s.busy = false ∧ ∀ p, phaseAt s.seqPc = some p → s.phase = p
  waiting : s.seqIssued = true → ∃ n l, expectAt s.seqPc = some (n, l) ∧
    (s.busy = true → s.pend = startsAt s ∧ ∀ p, phaseAt s.seqPc = some p → s.phase = p) ∧
    (s.busy = false → s.ready = true ∧
      ∀ raw, s.statusRaw = some raw → maskStatus raw = s.cfg.sc.code n → ∀ p, phaseAt l = some p → s.phase = p)

/-- What holds of the sequencer in every state a run reaches: it is ready exactly when no operation runs (R27), idle then
(R31), and while one runs its step, registers and the engine's position fit together (R95 to R101). -/
structure SequencerInv (s : State) : Prop where
  readyOp : s.seqReady = s.seqOp.isNone
  idle : s.seqOp = none → s.seqPc = .idle ∧ s.seqIssued = false
  running : ∀ op, s.seqOp = some op → RunningInv op s

/-- The invariant of the whole machine. -/
structure MachineInv (s : State) : Prop where
  engine : EngineInv s
  device : DeviceInv s
  sequencer : SequencerInv s
  bufWf : bufWf s.buf = true

/-- What the device holds when the step at a label issues its command (R53, R54, R58): the block bits of the address before the
word address byte, no data byte before the data byte, and the pointer at the address before the read-mode control byte. -/
def devicePre (a : LAddr) (d : Device) : SeqPc → Prop
  | .wb3 | .rb3 => d.wst = .wAddr ∧ d.blk = some (a.extractLsb' 8 3)
  | .wb4 => d.wst = .wData
  | .rb4 => d.wst = .wData ∧ d.ptr = some (effective a)
  | .rb5 => d.ptr = some (effective a)
  | _ => True

/-- In mode REF, what the device holds while an operation runs: before a command is issued and until it completes, what its step
needs; and after a completion whose status passes the check, what the next step needs. -/
structure SequencerDeviceInv (s : State) : Prop where
  before : s.cfg.mode = .ref → s.seqOp.isSome = true → ∀ a, s.seqAddr = some a → s.seqIssued = false ∨ s.busy = true →
    devicePre a s.dev s.seqPc
  passed : s.cfg.mode = .ref → s.seqOp.isSome = true → ∀ a, s.seqAddr = some a → s.seqIssued = true → s.busy = false →
    ∀ n l raw, expectAt s.seqPc = some (n, l) → s.statusRaw = some raw → maskStatus raw = s.cfg.sc.code n →
      devicePre a s.dev l

/-! ### Array operations (R100 to R103) -/

/-- How many elements an array operation has given their DELAY: SEQ_I, and the current one between its DELAY and the
increment of SEQ_I. -/
def elementsDelayed (s : State) : Nat :=
  (s.seqI.getD 0#9).toNat + (if s.seqPc = .wa3 ∨ s.seqPc = .ra3 then 1 else 0)

/-- How many DELAY events TRACE holds. -/
def delays (s : State) : Nat := s.trace.count .delay

/-- The operation is an array operation. -/
def isArrayOp : SeqCmd → Bool
  | .writeByte _ _ => false
  | .readByte _ => false
  | .writeArray _ _ => true
  | .readArray _ _ => true

/-- The instruction is a port read (R90, R91). -/
def isPortRead : Instr → Bool
  | .getStatus | .prCmd | .prStatusRaw | .prReady | .prData | .prDiv | .prOwnaddr | .prEn | .prSeqReady | .prResult
  | .prRdata => true
  | .prBuf _ => true
  | .init _ _ | .start | .stop | .write _ | .readAck | .readNack => false
  | .eeWriteByte _ _ | .eeReadByte _ | .eeWriteArray _ _ | .eeReadArray _ _ => false
  | .pwCmd _ | .pwBuf _ _ => false

/-! ### Schedules of a sequencer operation on a bus that answers at once -/

/-- The turns of one `Prim(c) expect n`: issue, completion, check. -/
def primTurns : List Agent := [.sequencer, .bus, .sequencer]

/-- The turns of the write micro-program (R97) when every check passes: WB1 to WB4, the stop, the end. -/
def writeTurns : List Agent := primTurns ++ primTurns ++ primTurns ++ primTurns ++ [.sequencer, .sequencer]

/-- The turns of the read micro-program (R98) when every check passes: RB1 to RB6, the stop, the end. -/
def readTurns : List Agent :=
  primTurns ++ primTurns ++ primTurns ++ primTurns ++ primTurns ++ primTurns ++ [.sequencer, .sequencer]

end Sys2Proof.Machine
end

