-- ==== Sys2Proof/Certificates/Slice0/Obligations.lean ====
section
/-! DEFINITION. The statements for the provers. Each follows numbered rules of spec/ (OBLIGATIONS.json says which). An
equation `exec i s = .next { s with … }` says the instruction completes, its result, and its frame in one. -/

open Sys2Proof Sys2Proof.Machine

/-! ### Encoding (R65 to R69, R75, R76) -/

/-- Decoding an encoded instruction gives it back, with every operand at every value. -/
def Obligations.DecodeOfEncodeIsTheInstruction : Prop := ∀ i : Instr, decode (encode i) = .ok i

/-- The same through the bits the opcode table numbers (the layout of a written value is log entry 18). -/
def Obligations.TableWordOfInstructionDecodesToIt : Prop :=
  ∀ i : Instr, decodeTableWord (tableWord (encode i)).1 (tableWord (encode i)).2 = some i

/-- R76: every word decodes to exactly the command it encodes, or is a reserved encoding; which of the two the mask and match
table of R66 and R67 says; and no two rows of that table match one word. -/
def Obligations.EveryCommandWordDecodesOrIsReserved : Prop :=
  (∀ w : Word,
    (assignedWord w = true ∧ ∃ c, readCommand w = .ok c ∧ encodeCommand c = w) ∨
    (assignedWord w = false ∧ readCommand w = .error (.reservedEncoding w))) ∧
  (∀ (w : Word) (r q : Word × Word), r ∈ commandRows → q ∈ commandRows →
    rowMatches w r = true → rowMatches w q = true → r = q)

/-- Words of spec/95_test_vectors.md, families DEC and PORT. That the 16 bits 0x3FF carry the value 0 is the model's (log
entry 18); the spec's row gives the pattern, and another value. -/
def Obligations.WrittenOutWordsDecode : Prop :=
  decodeTableWord 32 0x01000201 = some (.init 0x02#8 0x01#8) ∧
  decodeTableWord 32 0x040000FF = some (.write 0xFF#8) ∧
  decodeTableWord 32 0x10FFFF00 = some (.eeWriteByte 0xFFFF#16 0x00#8) ∧
  decodeTableWord 32 0x11030501 = none ∧
  decodeTableWord 16 0x002 = some .getStatus ∧
  decodeTableWord 16 0x104 = some (.prBuf 0x04#8) ∧
  decodeTableWord 16 0x00B = none ∧
  decodeTableWord 16 0x3FF = some (.pwBuf 0xFF#8 0#32)

/-! ### Bus bytes (R42 to R44, R71) -/

/-- R43: the control byte is 0xA0 | ((a & 0x0700) >> 7) | rw, which is the fields 0b1010, a[10:8], rw; the shifted part is
a[10:8] << 1, at most 0x0E, and overlaps neither of the other two; the source's worked example. -/
def Obligations.ControlByteHasItsFields : Prop :=
  (∀ a : LAddr,
    controlByte a .write = 0xA0#8 ||| ((a &&& 0x0700#16) >>> 7).setWidth 8 ||| 0#8 ∧
    controlByte a .read = 0xA0#8 ||| ((a &&& 0x0700#16) >>> 7).setWidth 8 ||| 1#8 ∧
    controlByte a .write = 0b1010#4 ++ a.extractLsb' 8 3 ++ 0#1 ∧
    controlByte a .read = 0b1010#4 ++ a.extractLsb' 8 3 ++ 1#1 ∧
    (a &&& 0x0700#16) >>> 7 = (a.extractLsb' 8 3).setWidth 16 <<< 1 ∧
    ((a &&& 0x0700#16) >>> 7).toNat ≤ 0x0E ∧ ((a &&& 0x0700#16) >>> 7) &&& 0x00A1#16 = 0#16) ∧
  controlByte 0x0305#16 .write = 0xA6#8 ∧ controlByte 0x0305#16 .read = 0xA7#8

/-- R44: the bus device address of a control byte is 0x50 | a[10:8], in 0x50..0x57. -/
def Obligations.BusAddressIsFiftyToFiftySeven : Prop :=
  ∀ (a : LAddr) (rw : Direction),
    busAddress (controlByte a rw) = 0x50#7 ||| (a.extractLsb' 8 3).setWidth 7 ∧
    0x50 ≤ (busAddress (controlByte a rw)).toNat ∧ (busAddress (controlByte a rw)).toNat ≤ 0x57

/-- R42: two logical addresses reach the same device byte, and are sent as the same bus bytes, exactly when their bits 10..0
agree; a and a + 0x0800 k alias. -/
def Obligations.LogicalAddressesAliasAboveBitTen : Prop :=
  (∀ a b : LAddr, effective a = effective b ↔
    controlByte a .write = controlByte b .write ∧ controlByte a .read = controlByte b .read ∧
      wordAddress a = wordAddress b) ∧
  (∀ a k : LAddr, effective (a + 0x0800#16 * k) = effective a)

/-! ### Reset (R122, R123) -/

/-- R122, R123: what reset leaves, for every choice of the parameters and of MEM0. -/
def Obligations.ResetLeavesTheStatedValues : Prop :=
  ∀ (cfg : Config) (mem0 : Cells) (s : State), s = State.launch cfg mem0 →
    s.en = false ∧ s.div = 0x00#8 ∧ s.ownaddr = 0x00#8 ∧ s.ready = false ∧ s.statusRaw = none ∧ s.data = none ∧
    s.phase = .idle ∧ s.busy = false ∧ s.pend = none ∧ s.seqReady = true ∧ s.result = none ∧ s.rdata = none ∧
    (∀ i, bufGet i s.buf = none) ∧ s.seqOp = none ∧ s.seqPc = .idle ∧ s.seqAddr = none ∧ s.seqData = none ∧
    s.seqBase = none ∧ s.seqN = none ∧ s.seqI = none ∧ s.seqR = none ∧ s.seqRd = none ∧ s.trace = [] ∧
    s.faulted = none ∧ s.dev.mem = mem0 ∧ s.dev.ptr = none ∧ s.dev.blk = none ∧ s.dev.wst = .idle ∧ s.dev.wpend = none

/-- The machine's invariant holds after reset, for every choice of the parameters and every canonical MEM0; State.reset is
that state under the model's choice of parameters and MEM0 (log entries 8, 9, 22). -/
def Obligations.ResetMeetsTheInvariant : Prop :=
  State.reset = State.launch resetConfig [] ∧
  (∀ (cfg : Config) (mem0 : Cells), Memory.wf mem0 = true → MachineInv (State.launch cfg mem0)) ∧ MachineInv State.reset

/-! ### Invariants every step keeps -/

/-- R20, R21, R26, R126: the engine's registers fit together after every step. -/
def Obligations.EveryStepKeepsTheEngineInvariant : Prop :=
  ∀ s t : State, EngineInv s → step s = .next t → EngineInv t

/-- R51 to R57: MEM keeps its canonical form, and the device's position keeps agreeing with PHASE. -/
def Obligations.EveryStepKeepsTheDeviceInvariant : Prop :=
  ∀ s t : State, DeviceInv s → step s = .next t → DeviceInv t

/-- R95 to R101: the sequencer's step, registers and the engine's position keep fitting together. The labels and seqIssued
are the model's granularity (log entries 11, 12). -/
def Obligations.EveryStepKeepsTheMachineInvariant : Prop :=
  ∀ s t : State, MachineInv s → step s = .next t → MachineInv t

/-! ### The engine commands (R80 to R89) -/

/-- R84. -/
def Obligations.InitProgramsAndEnables : Prop :=
  ∀ (div own : Byte) (s : State), s.live → s.seqReady = true → s.en = false →
    exec (.init div own) s =
      .next { s with div := div, ownaddr := own, en := true, phase := .idle, statusRaw := none }

/-- R85, issue. -/
def Obligations.StartBeginsAPhase : Prop :=
  ∀ s : State, s.canCommand → s.phase ≠ .mr →
    exec .start s = .next { s with busy := true, pend := some .start, ready := false, statusRaw := none }

/-- R86 in mode ORACLE and, for a device with no full write, in mode REF (R55, R56). -/
def Obligations.StopReleasesTheBus : Prop :=
  ∀ s : State, s.canCommand → s.phase = .addr ∨ s.phase = .mt ∨ s.phase = .hold →
    (s.cfg.mode = .oracle →
      exec .stop s = .next { s with trace := s.trace ++ [.p], phase := .idle, ready := false, statusRaw := none }) ∧
    (s.cfg.mode = .ref → s.dev.wst ≠ .wFull →
      exec .stop s = .next { s with trace := s.trace ++ [.p], phase := .idle, ready := false, statusRaw := none,
                                    dev := { s.dev with wst := .idle } })

/-- R86, R55: a stop in mode REF stores the pending byte at the pointer; the pointed byte reads as the pending byte after,
every other byte as before, and nothing but the named registers and the device changes. -/
def Obligations.StopStoresTheAcknowledgedByte : Prop :=
  ∀ (s : State) (ptr : EAddr) (v : Byte), s.canCommand → s.phase = .addr ∨ s.phase = .mt ∨ s.phase = .hold →
    s.cfg.mode = .ref → s.dev.wst = .wFull → s.dev.ptr = some ptr → s.dev.wpend = some v → Memory.wf s.dev.mem = true →
    ∃ mem, exec .stop s = .next { s with
        trace := s.trace ++ [.p], phase := .idle, ready := false, statusRaw := none,
        dev := { mem := mem, ptr := none, blk := s.dev.blk, wst := .idle, wpend := none } } ∧
      Memory.read ptr mem = v ∧ (∀ b, b ≠ ptr → Memory.read b mem = Memory.read b s.dev.mem) ∧ Memory.wf mem = true

/-- R87, issue. -/
def Obligations.WriteBeginsAPhase : Prop :=
  ∀ (b : Byte) (s : State), s.canCommand → s.phase = .addr ∨ s.phase = .mt →
    exec (.write b) s =
      .next { s with data := some b, busy := true, pend := some (.write b), ready := false, statusRaw := none }

/-- R88, R89, issue. -/
def Obligations.ReceiveCommandsBeginAPhase : Prop :=
  ∀ s : State, s.canCommand → s.phase = .mr →
    exec .readAck s =
      .next { s with data := none, busy := true, pend := some .readAck, ready := false, statusRaw := none } ∧
    exec .readNack s =
      .next { s with data := none, busy := true, pend := some .readNack, ready := false, statusRaw := none }

/-- R80: the host's checks of an engine command, in their order; each faults on the state as it was (R109). The cause
HOST_WHILE_SEQ_BUSY records is the model's (log entry 28). -/
def Obligations.EngineCommandsAreCheckedInOrder : Prop :=
  ∀ (c : EngineCmd) (w : Word) (s : State), s.live →
    (s.seqReady = false →
      exec (Command.engine c).toInstr s = .next (s.faultedBy (.hostWhileSeqBusy (.command (encodeEngine c)))) ∧
      exec (.pwCmd w) s = .next (s.faultedBy (.hostWhileSeqBusy (.command w))) ∧
      perform (.portWrite 0x000#9 w) s = .next (s.faultedBy (.hostWhileSeqBusy (.command w)))) ∧
    (s.seqReady = true → assignedWord w = false →
      exec (.pwCmd w) s = .next (s.faultedBy (.reservedEncoding (.command w)))) ∧
    (s.seqReady = true → s.en = true → (∃ d o, c = .init d o) →
      exec (Command.engine c).toInstr s = .next (s.faultedBy (.reinit (.command (encodeEngine c))))) ∧
    (s.seqReady = true → (∀ d o, c ≠ .init d o) →
      (s.en = false →
        exec (Command.engine c).toInstr s = .next (s.faultedBy (.notInitialised (.command (encodeEngine c))))) ∧
      (s.en = true → s.busy = true →
        exec (Command.engine c).toInstr s = .next (s.faultedBy (.cmdWhileBusy (.command (encodeEngine c))))) ∧
      (s.en = true → s.busy = false → legalIn c s.phase = false →
        exec (Command.engine c).toInstr s = .next (s.faultedBy (.outOfOrder (.command (encodeEngine c))))))

/-- R81: the calls the table marks "no" fault OUT_OF_ORDER, and no other call does. -/
def Obligations.OnlyTheMarkedCallsAreOutOfOrder : Prop :=
  ∀ (b : Byte) (s : State), s.canCommand →
    (exec .start s = .next (s.faultedBy (.outOfOrder (.command 0x02000000#32))) ↔ s.phase = .mr) ∧
    (exec .stop s = .next (s.faultedBy (.outOfOrder (.command 0x03000000#32))) ↔ s.phase = .idle ∨ s.phase = .mr) ∧
    (exec (.write b) s = .next (s.faultedBy (.outOfOrder (.command (0x040000#24 ++ b)))) ↔
      s.phase = .idle ∨ s.phase = .mr ∨ s.phase = .hold) ∧
    (exec .readAck s = .next (s.faultedBy (.outOfOrder (.command 0x05000000#32))) ↔ s.phase ≠ .mr) ∧
    (exec .readNack s = .next (s.faultedBy (.outOfOrder (.command 0x06000000#32))) ↔ s.phase ≠ .mr)

/-- R85, R82, completion without a bus error: S from IDLE, Sr from every other PHASE; in mode REF the device drops its
transaction (R52). The answer is the next of the script (the model's, log entry 2). -/
def Obligations.StartCompletes : Prop :=
  ∀ (s : State) (a : BusAnswer) (rest : List BusAnswer), s.live → s.busy = true → s.pend = some .start →
    s.answers = a :: rest → a.berr = false →
    busTurn s = .next { s with
      answers := rest, busy := false, pend := none, ready := true, phase := .addr,
      trace := s.trace ++ [if s.phase = .idle then .s else .sr],
      statusRaw := some ((if s.phase = .idle then s.cfg.sc.start else s.cfg.sc.repeatedStart) ||| a.low.setWidth 8),
      dev := if s.cfg.mode = .ref then { s.dev with wst := .idle, wpend := none } else s.dev }

/-- R83, R82: a bus error ends any phase. The answer is the next of the script (the model's, log entry 2). -/
def Obligations.BusErrorReleasesTheBus : Prop :=
  ∀ (c : Pending) (s : State) (a : BusAnswer) (rest : List BusAnswer), s.live → s.busy = true → s.pend = some c →
    s.answers = a :: rest → a.berr = true →
    busTurn s = .next { s with
      answers := rest, busy := false, pend := none, ready := true, phase := .idle, trace := s.trace ++ [.berr],
      statusRaw := some (s.cfg.sc.busError ||| a.low.setWidth 8),
      dev := if s.cfg.mode = .ref then { s.dev with wst := .idle, wpend := none } else s.dev }

/-- R87, R59, completion in mode ORACLE: the answer, the status, and PHASE. The answer is the next of the script (the
model's, log entry 2). -/
def Obligations.WriteCompletesInOracleMode : Prop :=
  ∀ (b : Byte) (s : State) (a : BusAnswer) (rest : List BusAnswer), s.live → s.cfg.mode = .oracle → s.busy = true →
    s.pend = some (.write b) → s.phase = .addr ∨ s.phase = .mt → s.answers = a :: rest → a.berr = false →
    busTurn s = .next { s with
      answers := rest, busy := false, pend := none, ready := true, trace := s.trace ++ [.tx b a.ack],
      phase := if a.ack = .nack then .hold else if s.phase = .addr ∧ b.extractLsb' 0 1 = 1#1 then .mr else .mt,
      statusRaw := some ((if s.phase = .addr
        then (if b.extractLsb' 0 1 = 0#1
          then (if a.ack = .ack then s.cfg.sc.addressAckW else s.cfg.sc.addressNackW)
          else (if a.ack = .ack then s.cfg.sc.addressAckR else s.cfg.sc.addressNackR))
        else (if a.ack = .ack then s.cfg.sc.dataAck else s.cfg.sc.dataTxNack)) ||| a.low.setWidth 8) }

/-- R53, R87, completion of a control byte in mode REF: which bytes the device acknowledges, and when it refuses. The
answer is the next of the script (the model's, log entry 2). The cause the refusal records, and that it leaves the answer
in the script, are the model's (log entries 13, 17). -/
def Obligations.ControlByteReachesTheDevice : Prop :=
  ∀ (b : Byte) (s : State) (a : BusAnswer) (rest : List BusAnswer), s.live → s.cfg.mode = .ref → s.busy = true →
    s.pend = some (.write b) → s.phase = .addr → s.answers = a :: rest → a.berr = false →
    (b.extractLsb' 4 4 ≠ 0xA#4 ∨ a.ack = .nack →
      busTurn s = .next { s with
        answers := rest, busy := false, pend := none, ready := true, phase := .hold, trace := s.trace ++ [.tx b .nack],
        statusRaw := some ((if b.extractLsb' 0 1 = 0#1 then s.cfg.sc.addressNackW else s.cfg.sc.addressNackR) |||
          a.low.setWidth 8),
        dev := { s.dev with wst := .skip } }) ∧
    (b.extractLsb' 4 4 = 0xA#4 → a.ack = .ack → b.extractLsb' 0 1 = 0#1 →
      busTurn s = .next { s with
        answers := rest, busy := false, pend := none, ready := true, phase := .mt, trace := s.trace ++ [.tx b .ack],
        statusRaw := some (s.cfg.sc.addressAckW ||| a.low.setWidth 8),
        dev := { s.dev with wst := .wAddr, blk := some (b.extractLsb' 1 3) } }) ∧
    (b.extractLsb' 4 4 = 0xA#4 → a.ack = .ack → b.extractLsb' 0 1 = 1#1 →
      ∀ ptr, s.dev.ptr = some ptr → ptr.extractLsb' 8 3 = b.extractLsb' 1 3 →
      busTurn s = .next { s with
        answers := rest, busy := false, pend := none, ready := true, phase := .mr, trace := s.trace ++ [.tx b .ack],
        statusRaw := some (s.cfg.sc.addressAckR ||| a.low.setWidth 8),
        dev := { s.dev with wst := .rd } }) ∧
    (b.extractLsb' 4 4 = 0xA#4 → a.ack = .ack → b.extractLsb' 0 1 = 1#1 →
      (∀ ptr, s.dev.ptr = some ptr → ptr.extractLsb' 8 3 ≠ b.extractLsb' 1 3) →
      busTurn s = .next (s.raise (.refusal (.deviceUnmodelled (.command (0x040000#24 ++ b))))))

/-- R54, R87, completion of a byte of a write transaction in mode REF: the word address byte, the data byte, and the
refused page-mode byte. The answer is the next of the script (the model's, log entry 2). The cause the refusal records,
and that it leaves the answer in the script, are the model's (log entries 13, 17). -/
def Obligations.WriteTransactionBytesReachTheDevice : Prop :=
  ∀ (b : Byte) (s : State) (a : BusAnswer) (rest : List BusAnswer), s.live → s.cfg.mode = .ref → s.busy = true →
    s.pend = some (.write b) → s.phase = .mt → s.answers = a :: rest → a.berr = false →
    (s.dev.wst = .wAddr → a.ack = .ack → ∀ blk, s.dev.blk = some blk →
      busTurn s = .next { s with
        answers := rest, busy := false, pend := none, ready := true, trace := s.trace ++ [.tx b .ack],
        statusRaw := some (s.cfg.sc.dataAck ||| a.low.setWidth 8),
        dev := { s.dev with wst := .wData, ptr := some (blk ++ b) } }) ∧
    (s.dev.wst = .wData → a.ack = .ack →
      busTurn s = .next { s with
        answers := rest, busy := false, pend := none, ready := true, trace := s.trace ++ [.tx b .ack],
        statusRaw := some (s.cfg.sc.dataAck ||| a.low.setWidth 8),
        dev := { s.dev with wst := .wFull, wpend := some b } }) ∧
    (s.dev.wst = .wAddr ∨ s.dev.wst = .wData → a.ack = .nack →
      busTurn s = .next { s with
        answers := rest, busy := false, pend := none, ready := true, phase := .hold, trace := s.trace ++ [.tx b .nack],
        statusRaw := some (s.cfg.sc.dataTxNack ||| a.low.setWidth 8),
        dev := { s.dev with wst := .skip } }) ∧
    (s.dev.wst = .wFull →
      busTurn s = .next (s.raise (.refusal (.deviceUnmodelled (.command (0x040000#24 ++ b))))))

/-- R88, R89, R57, R59: a byte is received: the drawn byte in mode ORACLE, in mode REF the byte at the device's pointer,
which moves on modulo 2048. The answer is the next of the script (the model's, log entry 2). -/
def Obligations.ReceivedByteLandsInData : Prop :=
  ∀ (s : State) (a : BusAnswer) (rest : List BusAnswer), s.live → s.busy = true → s.answers = a :: rest →
    a.berr = false →
    (s.cfg.mode = .oracle → s.pend = some .readAck →
      busTurn s = .next { s with
        answers := rest, busy := false, pend := none, ready := true, phase := .mr, data := some a.rx,
        trace := s.trace ++ [.rx a.rx .ack], statusRaw := some (s.cfg.sc.dataRxAck ||| a.low.setWidth 8) }) ∧
    (s.cfg.mode = .oracle → s.pend = some .readNack →
      busTurn s = .next { s with
        answers := rest, busy := false, pend := none, ready := true, phase := .hold, data := some a.rx,
        trace := s.trace ++ [.rx a.rx .nack], statusRaw := some (s.cfg.sc.dataNack ||| a.low.setWidth 8) }) ∧
    (s.cfg.mode = .ref → s.pend = some .readAck → s.dev.wst = .rd → ∀ ptr, s.dev.ptr = some ptr →
      busTurn s = .next { s with
        answers := rest, busy := false, pend := none, ready := true, phase := .mr,
        data := some (Memory.read ptr s.dev.mem), trace := s.trace ++ [.rx (Memory.read ptr s.dev.mem) .ack],
        statusRaw := some (s.cfg.sc.dataRxAck ||| a.low.setWidth 8),
        dev := { s.dev with ptr := some (ptr + 1#11) } }) ∧
    (s.cfg.mode = .ref → s.pend = some .readNack → s.dev.wst = .rd → ∀ ptr, s.dev.ptr = some ptr →
      busTurn s = .next { s with
        answers := rest, busy := false, pend := none, ready := true, phase := .hold,
        data := some (Memory.read ptr s.dev.mem), trace := s.trace ++ [.rx (Memory.read ptr s.dev.mem) .nack],
        statusRaw := some (s.cfg.sc.dataNack ||| a.low.setWidth 8),
        dev := { s.dev with ptr := some (ptr + 1#11) } })

/-! ### Port transactions (R90 to R92) -/

/-- R91, R90, R22: what a read of each port returns, and which reads fault; getStatus masks the status's low three bits
off. The value reaches the host in the model's own field hostReads (log entry 6). -/
def Obligations.PortReadsReturnTheRegisters : Prop :=
  ∀ s : State, s.live →
    exec .prCmd s = .next { s with hostReads := s.hostReads ++ [(0x000#9, 0#32)] } ∧
    (∀ v, s.statusRaw = some v →
      exec .prStatusRaw s = .next { s with hostReads := s.hostReads ++ [(0x001#9, v.setWidth 32)] }) ∧
    (s.statusRaw = none → exec .prStatusRaw s = .next (s.faultedBy (.readUnwritten (.port 0x001#9)))) ∧
    (∀ raw, s.statusRaw = some raw →
      exec .getStatus s = .next { s with hostReads := s.hostReads ++ [(0x002#9, (raw &&& 0xF8#8).setWidth 32)] }) ∧
    (s.statusRaw = none → exec .getStatus s = .next (s.faultedBy (.readUnwritten (.port 0x002#9)))) ∧
    exec .prReady s = .next { s with hostReads := s.hostReads ++ [(0x003#9, if s.ready then 1#32 else 0#32)] } ∧
    (∀ v, s.data = some v →
      exec .prData s = .next { s with hostReads := s.hostReads ++ [(0x004#9, v.setWidth 32)] }) ∧
    (s.data = none → exec .prData s = .next (s.faultedBy (.readUnwritten (.port 0x004#9)))) ∧
    exec .prDiv s = .next { s with hostReads := s.hostReads ++ [(0x005#9, s.div.setWidth 32)] } ∧
    exec .prOwnaddr s = .next { s with hostReads := s.hostReads ++ [(0x006#9, s.ownaddr.setWidth 32)] } ∧
    exec .prEn s = .next { s with hostReads := s.hostReads ++ [(0x007#9, if s.en then 1#32 else 0#32)] } ∧
    exec .prSeqReady s = .next { s with hostReads := s.hostReads ++ [(0x008#9, if s.seqReady then 1#32 else 0#32)] } ∧
    (∀ r, s.result = some r →
      exec .prResult s = .next { s with hostReads := s.hostReads ++ [(0x009#9, if r = .success then 0#32 else 1#32)] }) ∧
    (s.result = none → exec .prResult s = .next (s.faultedBy (.readUnwritten (.port 0x009#9)))) ∧
    (∀ v, s.rdata = some v →
      exec .prRdata s = .next { s with hostReads := s.hostReads ++ [(0x00A#9, v.setWidth 32)] }) ∧
    (s.rdata = none → exec .prRdata s = .next (s.faultedBy (.readUnwritten (.port 0x00A#9)))) ∧
    (∀ p : Port, 0x00B ≤ p.toNat → p.toNat ≤ 0x0FF →
      perform (.portRead p) s = .next (s.faultedBy (.portUnmapped (.port p)))) ∧
    (∀ (i : Byte) (v : Byte), bufGet i s.buf = some v →
      exec (.prBuf i) s = .next { s with hostReads := s.hostReads ++ [(1#1 ++ i, v.setWidth 32)] }) ∧
    (∀ i : Byte, bufGet i s.buf = none → exec (.prBuf i) s = .next (s.faultedBy (.readUnwritten (.port (1#1 ++ i)))))

/-- R35: a port read changes nothing but what the host has read, and FAULTED when it faults. hostReads is the model's own
field (log entry 6). -/
def Obligations.PortReadsChangeNothing : Prop :=
  ∀ (i : Instr) (s t : State), isPortRead i = true → exec i s = .next t →
    t = { s with hostReads := t.hostReads, faulted := t.faulted }

/-- R92, R69: a BUF write puts v[7:0] in its element, leaves every other element, and has no other effect. -/
def Obligations.BufWriteSetsOneElement : Prop :=
  ∀ (i : Byte) (v : Word) (s : State), s.live → s.seqReady = true → v.toNat < 256 → bufWf s.buf = true →
    ∃ buf, exec (.pwBuf i v) s = .next { s with buf := buf } ∧ bufWf buf = true ∧
      bufGet i buf = some (v.extractLsb' 0 8) ∧ ∀ j, j ≠ i → bufGet j buf = bufGet j s.buf

/-- R92: a port write: its checks in their order, each fault leaving the state as it was; then the issue of the command a
CMD word encodes, or the BUF element written, with no other effect. The cause the fault of a write of CMD records is not
R92's; EngineCommandsAreCheckedInOrder states it. -/
def Obligations.PortWritesAreCheckedInOrder : Prop :=
  ∀ (p : Port) (i : Byte) (v : Word) (s : State), s.live →
    (0x00B ≤ p.toNat → p.toNat ≤ 0x0FF → perform (.portWrite p v) s = .next (s.faultedBy (.portUnmapped (.port p)))) ∧
    (0x001 ≤ p.toNat → p.toNat ≤ 0x00A → perform (.portWrite p v) s = .next (s.faultedBy (.portReadOnly (.port p)))) ∧
    (s.seqReady = false →
      perform (.portWrite (1#1 ++ i) v) s = .next (s.faultedBy (.hostWhileSeqBusy (.port (1#1 ++ i)))) ∧
      ∃ c, perform (.portWrite 0x000#9 v) s = .next (s.faultedBy (.hostWhileSeqBusy c))) ∧
    (s.seqReady = true →
      (∀ c, readCommand v = .ok c → perform (.portWrite 0x000#9 v) s = exec c.toInstr s) ∧
      (∀ r, readCommand v = .error r →
        perform (.portWrite 0x000#9 v) s = .next (s.faultedBy (.reservedEncoding (.command v)))) ∧
      (256 ≤ v.toNat →
        perform (.portWrite (1#1 ++ i) v) s = .next (s.faultedBy (.reservedEncoding (.port (1#1 ++ i))))) ∧
      (v.toNat < 256 →
        perform (.portWrite (1#1 ++ i) v) s = .next { s with buf := bufSet i (some (v.extractLsb' 0 8)) s.buf }))

/-- R34, R69: a write of CMD issues the command its word encodes, exactly as the command's own row does. -/
def Obligations.CmdWriteIssuesItsCommand : Prop :=
  ∀ (w : Word) (i : Instr) (s : State), decodeCommand w = .ok i → exec (.pwCmd w) s = exec i s

/-- R34, R84 to R89, R94: PW_CMD completes with the issue of the command it carries. Here for the words of INIT, START,
WRITE and EE_WRITE_BYTE; CmdWriteIssuesItsCommand carries the others. The bit seqIssued and the operands in SEQ_OP are the
model's (log entries 11, 13). -/
def Obligations.CmdWriteCompletes : Prop :=
  ∀ s : State, s.live → s.seqReady = true →
    (s.en = false → ∀ div own : Byte,
      exec (.pwCmd (0x01#8 ++ 0#8 ++ div ++ own)) s =
        .next { s with div := div, ownaddr := own, en := true, phase := .idle, statusRaw := none }) ∧
    (s.en = true → s.busy = false → s.phase ≠ .mr →
      exec (.pwCmd 0x02000000#32) s =
        .next { s with busy := true, pend := some .start, ready := false, statusRaw := none }) ∧
    (s.en = true → s.busy = false → s.phase = .addr ∨ s.phase = .mt → ∀ b : Byte,
      exec (.pwCmd (0x040000#24 ++ b)) s =
        .next { s with data := some b, busy := true, pend := some (.write b), ready := false, statusRaw := none }) ∧
    (s.en = true → s.busy = false → ∀ (a : LAddr) (d : Byte),
      exec (.pwCmd (0x10#8 ++ a ++ d)) s =
        .next { s with seqReady := false, seqOp := some (.writeByte a d), result := none, seqIssued := false,
                       seqAddr := some a, seqData := some d, seqPc := .wb1 })

/-! ### The sequencer (R94 to R103) -/

/-- R94, R97, R98, R100, R101: the issue of each sequencer command: the flags, the operands, the first step. WA0 and RA0
are part of the load, and seqIssued is the model's (log entries 11, 12). The operands in SEQ_OP are the model's (log entry
13). -/
def Obligations.SequencerCommandsLoadTheirOperands : Prop :=
  ∀ (a : LAddr) (x : Byte) (s : State), s.canCommand →
    exec (.eeWriteByte a x) s = .next { s with
      seqReady := false, seqOp := some (.writeByte a x), result := none, seqIssued := false,
      seqAddr := some a, seqData := some x, seqPc := .wb1 } ∧
    exec (.eeReadByte a) s = .next { s with
      seqReady := false, seqOp := some (.readByte a), result := none, seqIssued := false, rdata := none,
      seqAddr := some a, seqRd := none, seqPc := .rb1 } ∧
    exec (.eeWriteArray a x) s = .next { s with
      seqReady := false, seqOp := some (.writeArray a x), result := none, seqIssued := false,
      seqBase := some a, seqN := some x, seqI := some 0#9, seqPc := .wa1 } ∧
    exec (.eeReadArray a x) s = .next { s with
      seqReady := false, seqOp := some (.readArray a x), result := none, seqIssued := false,
      seqBase := some a, seqN := some x, seqI := some 0#9, seqPc := .ra1 }

/-- R94: the host's checks of a sequencer command, in their order; PHASE is not checked. The cause HOST_WHILE_SEQ_BUSY
records, and the operands in SEQ_OP, are the model's (log entries 28, 13). -/
def Obligations.SequencerCommandsAreCheckedInOrder : Prop :=
  ∀ (c : SeqCmd) (s : State), s.live →
    (s.seqReady = false →
      exec (Command.sequencer c).toInstr s = .next (s.faultedBy (.hostWhileSeqBusy (.command (encodeSeq c))))) ∧
    (s.seqReady = true → s.en = false →
      exec (Command.sequencer c).toInstr s = .next (s.faultedBy (.notInitialised (.command (encodeSeq c))))) ∧
    (s.seqReady = true → s.en = true → s.busy = true →
      exec (Command.sequencer c).toInstr s = .next (s.faultedBy (.cmdWhileBusy (.command (encodeSeq c))))) ∧
    (s.seqReady = true → s.en = true → s.busy = false →
      ∃ t, exec (Command.sequencer c).toInstr s = .next t ∧ t.faulted = none ∧ t.seqOp = some c ∧ t.phase = s.phase)

/-- R95 at every step of both micro-programs: the issue starts the step's phase; the check waits for READY = 1 and nothing
else changes meanwhile; a status equal to the expected code goes to the next step, any other to ERR. At WB5 and RB7, in
every operation, the stop is issued and passed in one step, with no wait and no check, and in mode REF stores a full
write. That a turn of the held sequencer is a next state that changes nothing, where R11 and R95 give it no step, is the
model's (log entry 4); so are the bit seqIssued, and that the load of SEQ_RD is part of the passed check (log entries 11,
12). -/
def Obligations.MicroStepsIssueHoldAndCheck : Prop :=
  ∀ (op : SeqCmd) (s : State), s.live → s.seqOp = some op → s.seqReady = false →
    (∀ (p : Pending) (n : StatusName) (l : SeqPc), startsAt s = some p → expectAt s.seqPc = some (n, l) →
      (s.seqIssued = false → s.en = true → s.busy = false → legalIn p.cmd s.phase = true →
        ∃ d, sequencerTurn s = .next { s with
            data := d, busy := true, pend := some p, ready := false, statusRaw := none, seqIssued := true } ∧
          ((∀ b, p = .write b → d = some b) ∧ (p = .start → d = s.data) ∧ (p = .readNack → d = none))) ∧
      (s.seqIssued = true → s.ready = false → sequencerTurn s = .next s) ∧
      (s.seqIssued = true → s.ready = true → ∀ raw, s.statusRaw = some raw → raw &&& 0xF8#8 = s.cfg.sc.code n →
        sequencerTurn s = .next { s with
          seqIssued := false, seqPc := l, seqRd := if s.seqPc = .rb6 then s.data else s.seqRd }) ∧
      (s.seqIssued = true → s.ready = true → ∀ raw, s.statusRaw = some raw → raw &&& 0xF8#8 ≠ s.cfg.sc.code n →
        sequencerTurn s = .next { s with seqIssued := false, seqPc := .err })) ∧
    (∀ l, (s.seqPc = .wb5 ∧ l = .wb6) ∨ (s.seqPc = .rb7 ∧ l = .rb8) → s.en = true → s.busy = false →
      s.phase = .addr ∨ s.phase = .mt ∨ s.phase = .hold →
      (s.cfg.mode = .oracle →
        sequencerTurn s = .next { s with
          trace := s.trace ++ [.p], phase := .idle, ready := false, statusRaw := none, seqPc := l }) ∧
      (s.cfg.mode = .ref → s.dev.wst ≠ .wFull →
        sequencerTurn s = .next { s with
          trace := s.trace ++ [.p], phase := .idle, ready := false, statusRaw := none, seqPc := l,
          dev := { s.dev with wst := .idle } }) ∧
      (s.cfg.mode = .ref → s.dev.wst = .wFull → ∀ ptr v, s.dev.ptr = some ptr → s.dev.wpend = some v →
        Memory.wf s.dev.mem = true →
        ∃ mem, sequencerTurn s = .next { s with
            trace := s.trace ++ [.p], phase := .idle, ready := false, statusRaw := none, seqPc := l,
            dev := { mem := mem, ptr := none, blk := s.dev.blk, wst := .idle, wpend := none } } ∧
          Memory.read ptr mem = v ∧ (∀ b, b ≠ ptr → Memory.read b mem = Memory.read b s.dev.mem) ∧ Memory.wf mem = true))

/-- R96, R99, R105: the ends of a single-byte operation. After ERR nothing is issued: no stop, no event, PHASE as the
failed phase left it; RDATA is written only by a read that succeeded. That a label is one step is the model's (log entry
12). -/
def Obligations.SingleByteOperationsEnd : Prop :=
  ∀ (a : LAddr) (d : Byte) (s : State), s.live → s.seqReady = false →
    (s.seqOp = some (.writeByte a d) → s.seqPc = .wb6 →
      sequencerTurn s = .next { s with
        seqR := some .success, result := some .success, seqOp := none, seqPc := .idle, seqReady := true }) ∧
    (s.seqOp = some (.writeByte a d) → s.seqPc = .err →
      sequencerTurn s = .next { s with
        seqR := some .error, result := some .error, seqOp := none, seqPc := .idle, seqReady := true }) ∧
    (s.seqOp = some (.readByte a) → s.seqPc = .rb8 →
      sequencerTurn s = .next { s with
        seqR := some .success, result := some .success, rdata := s.seqRd, seqOp := none, seqPc := .idle,
        seqReady := true }) ∧
    (s.seqOp = some (.readByte a) → s.seqPc = .err →
      sequencerTurn s = .next { s with
        seqR := some .error, result := some .error, seqOp := none, seqPc := .idle, seqReady := true })

/-- R100: the loop of EE_WRITE_ARRAY, step by step: the end, a missing element, the next element's operands, and the
result after each element, which a non-strict array discards. That a label is one step, and the cause a fault of the
sequencer records, are the model's (log entries 12, 13). -/
def Obligations.WriteArrayLoops : Prop :=
  ∀ (a base : LAddr) (x n : Byte) (i : BitVec 9) (s : State), s.live → s.seqReady = false →
    s.seqOp = some (.writeArray a x) → s.seqBase = some base → s.seqN = some n → s.seqI = some i →
    (s.seqPc = .wa1 → i.toNat = n.toNat → sequencerTurn s = .next { s with seqPc := .wa4 }) ∧
    (s.seqPc = .wa1 → i.toNat < n.toNat → bufGet (i.setWidth 8) s.buf = none →
      sequencerTurn s = .next (s.faultedBy (.readUnwritten (.command (0x12#8 ++ a ++ x))))) ∧
    (s.seqPc = .wa1 → i.toNat < n.toNat → ∀ b, bufGet (i.setWidth 8) s.buf = some b →
      sequencerTurn s = .next { s with
        seqAddr := some (base + i.setWidth 16), seqData := some b, seqPc := .wb1 }) ∧
    (s.seqPc = .wb6 → sequencerTurn s = .next { s with seqR := some .success, seqPc := .wa2 }) ∧
    (s.seqPc = .err → sequencerTurn s = .next { s with seqR := some .error, seqPc := .wa2 }) ∧
    (s.seqPc = .wa2 → sequencerTurn s = .next { s with trace := s.trace ++ [.delay], seqPc := .wa3 }) ∧
    (s.seqPc = .wa3 → s.cfg.strictArray = false ∨ s.seqR = some .success →
      sequencerTurn s = .next { s with seqI := some (i + 1#9), seqPc := .wa1 }) ∧
    (s.seqPc = .wa3 → s.cfg.strictArray = true → s.seqR = some .error →
      sequencerTurn s = .next { s with result := some .error, seqPc := .seqEnd }) ∧
    (s.seqPc = .wa4 →
      sequencerTurn s = .next { s with
        result := if s.cfg.strictArray then some .success else none, seqPc := .seqEnd }) ∧
    (s.seqPc = .seqEnd → sequencerTurn s = .next { s with seqOp := none, seqPc := .idle, seqReady := true })

/-- R101: the loop of EE_READ_ARRAY, step by step; a read element goes to BUF, a failed one leaves none there, and every
other element stays. That a label is one step, and that BUF is written in the step of RB8 or ERR, are the model's (log
entry 12). -/
def Obligations.ReadArrayLoops : Prop :=
  ∀ (a base : LAddr) (x n : Byte) (i : BitVec 9) (s : State), s.live → s.seqReady = false →
    s.seqOp = some (.readArray a x) → s.seqBase = some base → s.seqN = some n → s.seqI = some i →
    bufWf s.buf = true →
    (s.seqPc = .ra1 → i.toNat = n.toNat → sequencerTurn s = .next { s with seqPc := .ra4 }) ∧
    (s.seqPc = .ra1 → i.toNat < n.toNat →
      sequencerTurn s = .next { s with
        seqAddr := some (base + i.setWidth 16), seqRd := none, seqPc := .rb1 }) ∧
    (s.seqPc = .rb8 → i.toNat < 256 → ∃ buf,
      sequencerTurn s = .next { s with buf := buf, seqR := some .success, seqPc := .ra2 } ∧
        bufGet (i.setWidth 8) buf = s.seqRd ∧ ∀ j, j ≠ i.setWidth 8 → bufGet j buf = bufGet j s.buf) ∧
    (s.seqPc = .err → i.toNat < 256 → ∃ buf,
      sequencerTurn s = .next { s with buf := buf, seqR := some .error, seqPc := .ra2 } ∧
        bufGet (i.setWidth 8) buf = none ∧ ∀ j, j ≠ i.setWidth 8 → bufGet j buf = bufGet j s.buf) ∧
    (s.seqPc = .ra2 → sequencerTurn s = .next { s with trace := s.trace ++ [.delay], seqPc := .ra3 }) ∧
    (s.seqPc = .ra3 → s.cfg.strictArray = false ∨ s.seqR = some .success →
      sequencerTurn s = .next { s with seqI := some (i + 1#9), seqPc := .ra1 }) ∧
    (s.seqPc = .ra3 → s.cfg.strictArray = true → s.seqR = some .error →
      sequencerTurn s = .next { s with result := some .error, seqPc := .seqEnd }) ∧
    (s.seqPc = .ra4 →
      sequencerTurn s = .next { s with
        result := if s.cfg.strictArray then some .success else none, seqPc := .seqEnd }) ∧
    (s.seqPc = .seqEnd → sequencerTurn s = .next { s with seqOp := none, seqPc := .idle, seqReady := true })

/-- R97, R98, R100: the sequencer faults only where the rules say: OUT_OF_ORDER at its first START when PHASE is MR, and
READ_UNWRITTEN at WA1 for a missing BUF element. The causes the two faults record are the model's (log entry 13). -/
def Obligations.SequencerFaultsOnlyWhereStated : Prop :=
  ∀ (op : SeqCmd) (s t : State), MachineInv s → s.live → s.seqOp = some op → sequencerTurn s = .next t →
    t.faulted = none ∨
    ((s.seqPc = .wb1 ∨ s.seqPc = .rb1) ∧ s.seqIssued = false ∧ s.phase = .mr ∧
      t = s.faultedBy (.outOfOrder (.command 0x02000000#32))) ∨
    (s.seqPc = .wa1 ∧ (∃ i, s.seqI = some i ∧ bufGet (i.setWidth 8) s.buf = none) ∧
      t = s.faultedBy (.readUnwritten (.command (encodeSeq op))))

/-- R58: no completion of a phase the sequencer started is refused: "No sequencer command produces either". The invariant
adds what the device holds between the sequencer's phases. -/
def Obligations.SequencerPhasesAreNeverRefused : Prop :=
  ∀ (op : SeqCmd) (s t : State), MachineInv s → SequencerDeviceInv s → s.live → s.seqOp = some op →
    busTurn s = .next t → t.faulted = none

/-- What the device holds while the sequencer runs is kept by every step. The invariant is the model's (log entries 11,
12). -/
def Obligations.EveryStepKeepsTheSequencerDeviceInvariant : Prop :=
  ∀ s t : State, MachineInv s → SequencerDeviceInv s → step s = .next t → SequencerDeviceInv t

/-! ### Whole operations (95_test_vectors.md W4 to W6, families EEWB and EERB) -/

/-- R97, W4: on a bus that acknowledges every phase, EE_WRITE_BYTE from PHASE IDLE sends exactly S, the control byte, the
word address, the data byte, P, reports Success, and in mode REF stores the byte at the address and nowhere else. The
schedule and the answers are scripts (the model's, log entries 1, 2, 12). -/
def Obligations.WriteByteOnAnAcknowledgingBusSucceeds : Prop :=
  ∀ (a : LAddr) (d : Byte) (s : State) (turns : List Agent) (a1 a2 a3 a4 : BusAnswer) (answers : List BusAnswer),
    s.canCommand → s.phase = .idle → Memory.wf s.dev.mem = true → s.turns = writeTurns ++ turns →
    s.answers = [a1, a2, a3, a4] ++ answers → cleanAnswer a1 → cleanAnswer a2 → cleanAnswer a3 → cleanAnswer a4 →
    ∃ s' t, exec (.eeWriteByte a d) s = .next s' ∧ Sys2Proof.core.run 14 s' = .next t ∧
      t.trace = s.trace ++ [.s, .tx (controlByte a .write) .ack, .tx (wordAddress a) .ack, .tx d .ack, .p] ∧
      t.result = some .success ∧ t.phase = .idle ∧ t.ready = false ∧ t.busy = false ∧ t.statusRaw = none ∧
      t.data = some d ∧ t.seqReady = true ∧ t.seqOp = none ∧ t.seqPc = .idle ∧ t.faulted = none ∧
      t.en = s.en ∧ t.div = s.div ∧ t.ownaddr = s.ownaddr ∧ t.rdata = s.rdata ∧ t.buf = s.buf ∧
      t.turns = turns ∧ t.answers = answers ∧
      (s.cfg.mode = .oracle → t.dev = s.dev) ∧
      (s.cfg.mode = .ref → Memory.read (effective a) t.dev.mem = d ∧
        (∀ b, b ≠ effective a → Memory.read b t.dev.mem = Memory.read b s.dev.mem) ∧ t.dev.ptr = none ∧ t.dev.wst = .idle)

/-- R98: on a bus that acknowledges every phase, EE_READ_BYTE from PHASE IDLE sends exactly S, the two bytes of the
address, Sr, the read-mode control byte, receives one NACKed byte, P, reports Success, and RDATA is the byte: the drawn
one in mode ORACLE, the device's at the address in mode REF. The schedule and the answers are scripts (the model's, log
entries 1, 2, 12). -/
def Obligations.ReadByteOnAnAcknowledgingBusSucceeds : Prop :=
  ∀ (a : LAddr) (s : State) (turns : List Agent) (a1 a2 a3 a4 a5 a6 : BusAnswer) (answers : List BusAnswer),
    s.canCommand → s.phase = .idle → s.turns = readTurns ++ turns →
    s.answers = [a1, a2, a3, a4, a5, a6] ++ answers → cleanAnswer a1 → cleanAnswer a2 → cleanAnswer a3 → cleanAnswer a4 → cleanAnswer a5 →
    cleanAnswer a6 →
    ∃ s' t d, exec (.eeReadByte a) s = .next s' ∧ Sys2Proof.core.run 20 s' = .next t ∧
      d = (if s.cfg.mode = .ref then Memory.read (effective a) s.dev.mem else a6.rx) ∧
      t.trace = s.trace ++ [.s, .tx (controlByte a .write) .ack, .tx (wordAddress a) .ack, .sr,
        .tx (controlByte a .read) .ack, .rx d .nack, .p] ∧
      t.result = some .success ∧ t.rdata = some d ∧ t.phase = .idle ∧ t.ready = false ∧ t.busy = false ∧
      t.statusRaw = none ∧ t.seqReady = true ∧ t.seqOp = none ∧ t.seqPc = .idle ∧ t.faulted = none ∧
      t.buf = s.buf ∧ t.dev.mem = s.dev.mem ∧ t.turns = turns ∧ t.answers = answers ∧
      (s.cfg.mode = .ref → t.dev.ptr = some (effective a + 1#11) ∧ t.dev.wst = .idle)

/-- W6: in mode REF, on a bus that acknowledges every phase, EE_WRITE_BYTE A, V followed by EE_READ_BYTE B returns V for
every B that names the same device byte, and the byte already there for every other B. The schedule and the answers are
scripts (the model's, log entries 1, 2, 12). -/
def Obligations.WriteThenReadRoundTrips : Prop :=
  ∀ (a b : LAddr) (v : Byte) (s : State) (turns : List Agent) (clean answers : List BusAnswer),
    s.canCommand → s.phase = .idle → s.cfg.mode = .ref → Memory.wf s.dev.mem = true →
    s.turns = writeTurns ++ (readTurns ++ turns) → s.answers = clean ++ answers → clean.length = 10 →
    (∀ x ∈ clean, cleanAnswer x) →
    ∃ s1 s2 s3 t, exec (.eeWriteByte a v) s = .next s1 ∧ Sys2Proof.core.run 14 s1 = .next s2 ∧
      exec (.eeReadByte b) s2 = .next s3 ∧ Sys2Proof.core.run 20 s3 = .next t ∧ t.result = some .success ∧
      t.rdata = some (if effective a = effective b then v else Memory.read (effective b) s.dev.mem) ∧
      (t.rdata = some v ↔ effective a = effective b ∨ Memory.read (effective b) s.dev.mem = v)

/-- W5, R97, R99: a control byte that is not acknowledged ends EE_WRITE_BYTE with Error; the word address and the data
byte are never sent, no stop is issued, and the bus stays owned. The schedule and the answers are scripts (the model's,
log entries 1, 2, 12). -/
def Obligations.UnacknowledgedControlByteAborts : Prop :=
  ∀ (a : LAddr) (d : Byte) (s : State) (turns : List Agent) (a1 a2 : BusAnswer) (answers : List BusAnswer),
    s.canCommand → s.phase = .idle → s.turns = primTurns ++ primTurns ++ [.sequencer] ++ turns →
    s.answers = [a1, a2] ++ answers → cleanAnswer a1 → a2.berr = false → a2.ack = .nack →
    ∃ s' t, exec (.eeWriteByte a d) s = .next s' ∧ Sys2Proof.core.run 7 s' = .next t ∧
      t.trace = s.trace ++ [.s, .tx (controlByte a .write) .nack] ∧ t.result = some .error ∧ t.phase = .hold ∧
      t.seqReady = true ∧ t.seqPc = .idle ∧ t.faulted = none ∧ t.dev.mem = s.dev.mem

/-- R104: an operation started while the bus is owned (PHASE ADDR, MT or HOLD) and with no bus error gets REPEATED_START,
reports Error, sends nothing but Sr, and leaves PHASE ADDR. The schedule and the answers are scripts (the model's, log
entries 1, 2, 12). -/
def Obligations.OperationOnAnOwnedBusFails : Prop :=
  ∀ (a : LAddr) (d : Byte) (s : State) (turns : List Agent) (a1 : BusAnswer) (answers : List BusAnswer),
    s.canCommand → s.phase = .addr ∨ s.phase = .mt ∨ s.phase = .hold →
    s.turns = primTurns ++ [.sequencer] ++ turns → s.answers = a1 :: answers → a1.berr = false →
    (∃ s' t, exec (.eeWriteByte a d) s = .next s' ∧ Sys2Proof.core.run 4 s' = .next t ∧
      t.trace = s.trace ++ [.sr] ∧ t.result = some .error ∧ t.phase = .addr ∧ t.seqReady = true ∧ t.faulted = none) ∧
    (∃ s' t, exec (.eeReadByte a) s = .next s' ∧ Sys2Proof.core.run 4 s' = .next t ∧
      t.trace = s.trace ++ [.sr] ∧ t.result = some .error ∧ t.rdata = none ∧ t.phase = .addr ∧ t.seqReady = true ∧
      t.faulted = none)

/-- R100, R101, R103, W7: while a non-strict array operation runs, every step adds to TRACE exactly the DELAY events it
adds to the elements done, whatever the elements' results; it ends only when every element is done. The count of elements
follows the model's labels (log entry 12). -/
def Obligations.NonStrictArraysDelayOncePerElement : Prop :=
  ∀ (op : SeqCmd) (s t : State), MachineInv s → s.cfg.strictArray = false → s.seqOp = some op → isArrayOp op = true →
    step s = .next t →
    (t.seqOp = some op → delays t + elementsDelayed s = delays s + elementsDelayed t) ∧
    (t.seqOp ≠ some op → t.seqOp = none ∧ delays t = delays s ∧
      ∃ n, s.seqN = some n ∧ elementsDelayed s = n.toNat ∧ t.result = s.result)

/-! ### Rules of the whole machine -/

/-- The step gives its turn to the agent named next, and a passed turn changes nothing else. The turn script and the
passed turn are the model's (log entries 1, 4). -/
def Obligations.StepIsTheTurnOfTheNamedAgent : Prop :=
  ∀ (g : Agent) (turns : List Agent) (s : State), s.live → s.turns = g :: turns →
    step s = (match g with
      | .host => hostTurn { s with turns := turns }
      | .sequencer => sequencerTurn { s with turns := turns }
      | .bus => busTurn { s with turns := turns }) ∧
    (s.host = [] → g = .host → step s = .next { s with turns := turns }) ∧
    (s.seqOp = none → g = .sequencer → step s = .next { s with turns := turns }) ∧
    (s.busy = false → g = .bus → step s = .next { s with turns := turns })

/-- A step runs the decoded instruction of the host's next line; an instruction laid before the host runs in the next step
on the state as it was. The host's lines and the turn script are the model's (log entries 1, 5, 19). -/
def Obligations.StepRunsTheDecodedInstruction : Prop :=
  (∀ (x : Transfer) (i : Instr) (rest : List HostLine) (turns : List Agent) (s : State), s.live →
    s.turns = .host :: turns → s.host = .xfer x :: rest → decode x = .ok i →
    step s = exec i { s with turns := turns, host := rest }) ∧
  (∀ (nbits w : Nat) (i : Instr) (s : State), s.live → decodeTableWord nbits w = some i →
    step (s.withFetchWord nbits w) = exec i s)

/-- R77: a poll of WAIT is the PortRead of its port: the line is done when the read returned the value, and stays when it
returned another or faulted. What the poll does to READY's port and to SEQ_READY's, the two that R78 waits on, is written
out. Lines as data and the record of what the host read are the model's (log entries 5, 6). -/
def Obligations.WaitHoldsUntilTheValueIsRead : Prop :=
  ∀ (p : Port) (v : Word) (rest : List HostLine) (s : State), s.live → s.host = .wait p v :: rest →
    (∀ t, perform (.portRead p) s = .next t →
      (t.faulted = none → t.lastRead = some v → hostTurn s = .next { t with host := rest }) ∧
      (t.faulted ≠ none ∨ t.lastRead ≠ some v → hostTurn s = .next t)) ∧
    (p = 0x003#9 →
      ((if s.ready then 1#32 else 0#32) = v →
        hostTurn s = .next { s with host := rest, hostReads := s.hostReads ++ [(0x003#9, v)] }) ∧
      ((if s.ready then 1#32 else 0#32) ≠ v →
        hostTurn s = .next { s with hostReads := s.hostReads ++ [(0x003#9, if s.ready then 1#32 else 0#32)] })) ∧
    (p = 0x008#9 →
      ((if s.seqReady then 1#32 else 0#32) = v →
        hostTurn s = .next { s with host := rest, hostReads := s.hostReads ++ [(0x008#9, v)] }) ∧
      ((if s.seqReady then 1#32 else 0#32) ≠ v →
        hostTurn s = .next { s with hostReads := s.hostReads ++ [(0x008#9, if s.seqReady then 1#32 else 0#32)] }))

/-- R127, R86: after STOP, with no later command, no step of any agent ends a wait on READY. The polling host is the
model's (log entry 5). -/
def Obligations.WaitOnReadyAfterStopNeverEnds : Prop :=
  ∀ (rest : List HostLine) (s t : State), s.live → s.ready = false → s.busy = false → s.seqOp = none →
    s.host = .wait 0x003#9 1#32 :: rest → step s = .next t →
    t.live ∧ t.ready = false ∧ t.busy = false ∧ t.seqOp = none ∧ t.host = s.host ∧ t.trace = s.trace

/-- R33, R109: while FAULTED is not none no agent has a step: the machine answers the recorded reason, for every turn and
every instruction. That the step after the fault answers with the recorded reason is the model's (log entry 3). -/
def Obligations.FaultedMachineHasNoStep : Prop :=
  ∀ (i : Instr) (s : State),
    (∀ f, s.faulted = some (.fault f) → step s = .fault f ∧ exec i s = .fault f) ∧
    (∀ r, s.faulted = some (.refusal r) → step s = .refused r ∧ exec i s = .refused r)

/-- R74: under a status table with a low bit set or two equal codes, the first step raises CONFIG_UNMODELLED. That the
first step raises it is the model's (log entry 16). -/
def Obligations.BadStatusTableIsRefused : Prop :=
  ∀ s : State, s.faulted = none →
    ((∃ n, s.cfg.sc.code n &&& 0x07#8 ≠ 0#8) ∨ (∃ m n, m ≠ n ∧ s.cfg.sc.code m = s.cfg.sc.code n)) →
    step s = .next (s.raise (.refusal .configUnmodelled))

/-- R109: an instruction that faults leaves every piece of state but FAULTED as it was. That a fault is a next state with
FAULTED set is the model's reading of R109 (log entry 3). -/
def Obligations.FaultsArePrecise : Prop :=
  ∀ (i : Instr) (s t : State), exec i s = .next t → t.faulted ≠ none → t = { s with faulted := t.faulted }

/-- R17 to R19: once INIT has set EN, no step of any agent changes EN, DIV or OWNADDR; before it, only an INIT of the host
does. No step changes the parameters. That the parameters of R8 stand in State and no step changes them is the model's
(log entry 7). -/
def Obligations.BusConfigurationIsSetOnce : Prop :=
  ∀ s t : State, step s = .next t →
    t.cfg = s.cfg ∧ (s.en = true → t.en = true ∧ t.div = s.div ∧ t.ownaddr = s.ownaddr) ∧
    (s.en = false → t.en = false → t.div = s.div ∧ t.ownaddr = s.ownaddr)

/-- R32: TRACE only grows, by at most one event a step. -/
def Obligations.TraceOnlyGrows : Prop :=
  ∀ s t : State, step s = .next t → t.trace = s.trace ∨ ∃ e, t.trace = s.trace ++ [e]

/-- R55, R51: MEM changes only in mode REF, at a P event, when the device holds a full write; then exactly the byte at its
pointer becomes the pending byte. -/
def Obligations.MemoryChangesOnlyAtAStop : Prop :=
  ∀ s t : State, step s = .next t → t.dev.mem ≠ s.dev.mem →
    s.cfg.mode = .ref ∧ s.dev.wst = .wFull ∧ t.trace = s.trace ++ [.p] ∧
      ∃ ptr v, s.dev.ptr = some ptr ∧ s.dev.wpend = some v ∧ t.dev.mem = Memory.write ptr v s.dev.mem

/-- R29: RDATA changes only when EE_READ_BYTE is issued, to none, and when it ends in Success. -/
def Obligations.OnlyReadByteWritesRdata : Prop :=
  ∀ s t : State, step s = .next t → t.rdata ≠ s.rdata →
    (t.rdata = none ∧ ∃ a, t.seqOp = some (.readByte a)) ∨
    ((∃ a, s.seqOp = some (.readByte a)) ∧ t.seqOp = none ∧ t.result = some .success ∧ t.rdata = s.seqRd)

/-- R112, R131: while the sequencer runs, a step of the host changes nothing but what it has read, its own program, and
FAULTED. The host's lines and reads are the model's own fields (log entries 5, 6). -/
def Obligations.HostOnlyReadsWhileTheSequencerRuns : Prop :=
  ∀ s t : State, s.seqReady = false → hostTurn s = .next t →
    t = { s with hostReads := t.hostReads, host := t.host, faulted := t.faulted }

/-- R20, R82, R132: READY rises only when a pending phase completes in a step of the bus environment. -/
def Obligations.ReadyRisesOnlyAtACompletion : Prop :=
  ∀ s t : State, step s = .next t → s.ready = false → t.ready = true →
    s.nextAgent = .bus ∧ s.busy = true ∧ s.pend.isSome = true ∧ t.busy = false ∧ t.pend = none ∧ t.statusRaw.isSome = true
end

