-- ==== Sys2Proof/Laws/Cells.lean ====
section
/-! SUPPORT. The laws of cells, of MEM and of BUF: a read after a write, and the canonical form is kept. -/

namespace Sys2Proof.Machine

/-- Every index listed is at least n. -/
def cellsFrom (n : Nat) (m : Cells) : Prop := ∀ c ∈ m, n ≤ c.1

theorem cellSorted_cons (a : Nat) (v : Byte) (m : Cells) :
    cellSorted ((a, v) :: m) = true ↔ cellsFrom (a + 1) m ∧ cellSorted m = true := by
  induction m generalizing a v with
  | nil => simp [cellSorted, cellsFrom]
  | cons c rest ih =>
    obtain ⟨b, w⟩ := c
    simp only [cellSorted, Bool.and_eq_true, decide_eq_true_eq]
    constructor
    · rintro ⟨hab, hs⟩
      refine ⟨?_, hs⟩
      intro c hc
      rcases List.mem_cons.mp hc with rfl | hc
      · simpa using hab
      · have := ((ih b w).mp hs).1 c hc
        omega
    · rintro ⟨hf, hs⟩
      exact ⟨by simpa using hf (b, w) (by simp), hs⟩

theorem cellGet_of_from {n a : Nat} (h : a < n) {m : Cells} (hm : cellsFrom n m) : cellGet a m = none := by
  induction m with
  | nil => rfl
  | cons c rest ih =>
    obtain ⟨b, w⟩ := c
    have hb : n ≤ b := hm (b, w) (by simp)
    simp only [cellGet]
    rw [if_neg (by omega)]
    exact ih fun c hc => hm c (by simp [hc])

theorem cellGet_put_same (a : Nat) (v : Byte) (m : Cells) : cellGet a (cellPut a v m) = some v := by
  induction m with
  | nil => simp [cellPut, cellGet]
  | cons c rest ih =>
    obtain ⟨b, w⟩ := c
    simp only [cellPut]
    split
    · simp [cellGet]
    · split
      · simp [cellGet]
      · simp only [cellGet]
        rw [if_neg (by assumption)]
        exact ih

theorem cellGet_put_other {a b : Nat} (h : b ≠ a) (v : Byte) (m : Cells) :
    cellGet b (cellPut a v m) = cellGet b m := by
  induction m with
  | nil => simp [cellPut, cellGet, h]
  | cons c rest ih =>
    obtain ⟨d, w⟩ := c
    simp only [cellPut]
    split
    · simp [cellGet, h]
    · split
      · subst_vars
        simp [cellGet, h]
      · simp only [cellGet, ih]

theorem cellGet_drop_same (a : Nat) {m : Cells} (hm : cellSorted m = true) : cellGet a (cellDrop a m) = none := by
  induction m with
  | nil => rfl
  | cons c rest ih =>
    obtain ⟨b, w⟩ := c
    have hs := (cellSorted_cons b w rest).mp hm
    simp only [cellDrop]
    split
    · subst_vars
      exact cellGet_of_from (Nat.lt_succ_self _) hs.1
    · simp only [cellGet]
      rw [if_neg (by assumption)]
      exact ih hs.2

theorem cellGet_drop_other {a b : Nat} (h : b ≠ a) (m : Cells) : cellGet b (cellDrop a m) = cellGet b m := by
  induction m with
  | nil => rfl
  | cons c rest ih =>
    obtain ⟨d, w⟩ := c
    simp only [cellDrop]
    split
    · subst_vars
      simp [cellGet, h]
    · simp only [cellGet, ih]

theorem mem_cellPut {a : Nat} {v : Byte} {m : Cells} {c : Host.Cell} (h : c ∈ cellPut a v m) : c = (a, v) ∨ c ∈ m := by
  induction m with
  | nil => exact .inl (by simpa [cellPut] using h)
  | cons d rest ih =>
    obtain ⟨b, w⟩ := d
    simp only [cellPut] at h
    split at h
    · rcases List.mem_cons.mp h with h | h
      · exact .inl h
      · exact .inr h
    · split at h
      · rcases List.mem_cons.mp h with h | h
        · exact .inl h
        · exact .inr (by simp [h])
      · rcases List.mem_cons.mp h with h | h
        · exact .inr (by simp [h])
        · rcases ih h with h | h
          · exact .inl h
          · exact .inr (by simp [h])

theorem mem_cellDrop {a : Nat} {m : Cells} {c : Host.Cell} (h : c ∈ cellDrop a m) : c ∈ m := by
  induction m with
  | nil => exact h
  | cons d rest ih =>
    obtain ⟨b, w⟩ := d
    simp only [cellDrop] at h
    split at h
    · simp [h]
    · rcases List.mem_cons.mp h with h | h
      · simp [h]
      · simp [ih h]

theorem cellSorted_put (a : Nat) (v : Byte) {m : Cells} (hm : cellSorted m = true) :
    cellSorted (cellPut a v m) = true := by
  induction m with
  | nil => rfl
  | cons c rest ih =>
    obtain ⟨b, w⟩ := c
    have hs := (cellSorted_cons b w rest).mp hm
    simp only [cellPut]
    split
    · simp [cellSorted, *]
    · split
      · subst_vars
        exact (cellSorted_cons _ v rest).mpr hs
      · refine (cellSorted_cons _ _ _).mpr ⟨?_, ih hs.2⟩
        intro c hc
        rcases mem_cellPut hc with rfl | hc
        · simp only
          omega
        · exact hs.1 c hc

theorem cellSorted_drop (a : Nat) {m : Cells} (hm : cellSorted m = true) : cellSorted (cellDrop a m) = true := by
  induction m with
  | nil => rfl
  | cons c rest ih =>
    obtain ⟨b, w⟩ := c
    have hs := (cellSorted_cons b w rest).mp hm
    simp only [cellDrop]
    split
    · exact hs.2
    · exact (cellSorted_cons _ _ _).mpr ⟨fun c hc => hs.1 c (mem_cellDrop hc), ih hs.2⟩

/-! ### MEM -/

theorem Memory.wf_iff (m : Cells) :
    Memory.wf m = true ↔ cellSorted m = true ∧ ∀ c ∈ m, c.1 < 2048 ∧ c.2 ≠ Memory.blank := by
  simp [Memory.wf, List.all_eq_true]

theorem Memory.wf_nil : Memory.wf [] = true := rfl

/-- MemWrite keeps the canonical form. -/
theorem Memory.write_wf (a : EAddr) (v : Byte) {m : Cells} (hm : Memory.wf m = true) :
    Memory.wf (Memory.write a v m) = true := by
  rw [Memory.wf_iff] at hm ⊢
  unfold Memory.write
  split
  · exact ⟨cellSorted_drop _ hm.1, fun c hc => hm.2 c (mem_cellDrop hc)⟩
  · refine ⟨cellSorted_put _ _ hm.1, fun c hc => ?_⟩
    rcases mem_cellPut hc with rfl | hc
    · exact ⟨a.isLt, by assumption⟩
    · exact hm.2 c hc

/-- A read of the byte just written. -/
theorem Memory.read_write_same (a : EAddr) (v : Byte) {m : Cells} (hm : Memory.wf m = true) :
    Memory.read a (Memory.write a v m) = v := by
  unfold Memory.read Memory.write
  split
  · rw [cellGet_drop_same _ ((Memory.wf_iff m).mp hm).1]
    subst_vars
    rfl
  · rw [cellGet_put_same]
    rfl

/-- A read of any other byte. -/
theorem Memory.read_write_other {a b : EAddr} (h : b ≠ a) (v : Byte) (m : Cells) :
    Memory.read b (Memory.write a v m) = Memory.read b m := by
  have hn : b.toNat ≠ a.toNat := fun e => h (BitVec.eq_of_toNat_eq e)
  unfold Memory.read Memory.write
  split
  · rw [cellGet_drop_other hn]
  · rw [cellGet_put_other hn]

/-! ### BUF -/

theorem bufWf_iff (b : Cells) : bufWf b = true ↔ cellSorted b = true ∧ ∀ c ∈ b, c.1 < 256 := by
  simp [bufWf, List.all_eq_true]

theorem bufWf_nil : bufWf [] = true := rfl

/-- A BUF write keeps the canonical form. -/
theorem bufSet_wf (i : Byte) (v : Option Byte) {b : Cells} (hb : bufWf b = true) : bufWf (bufSet i v b) = true := by
  rw [bufWf_iff] at hb ⊢
  cases v with
  | none => exact ⟨cellSorted_drop _ hb.1, fun c hc => hb.2 c (mem_cellDrop hc)⟩
  | some x =>
    refine ⟨cellSorted_put _ _ hb.1, fun c hc => ?_⟩
    rcases mem_cellPut hc with rfl | hc
    · exact i.isLt
    · exact hb.2 c hc

theorem bufGet_set_same (i : Byte) (v : Option Byte) {b : Cells} (hb : bufWf b = true) :
    bufGet i (bufSet i v b) = v := by
  cases v with
  | none => exact cellGet_drop_same _ ((bufWf_iff b).mp hb).1
  | some x => exact cellGet_put_same _ _ _

theorem bufGet_set_other {i j : Byte} (h : j ≠ i) (v : Option Byte) (b : Cells) :
    bufGet j (bufSet i v b) = bufGet j b := by
  have hn : j.toNat ≠ i.toNat := fun e => h (BitVec.eq_of_toNat_eq e)
  cases v with
  | none => exact cellGet_drop_other hn _
  | some x => exact cellGet_put_other hn _ _

end Sys2Proof.Machine
end

