-- ==== Sys2Proof/Laws/Decode.lean ====
section
/-! SUPPORT. The fields of a command word as numbers, and the fields of a word put together from its opcode, its middle 16 bits
and its low byte. -/

namespace Sys2Proof

theorem append_toNat {m n : Nat} (x : BitVec m) (y : BitVec n) : (x ++ y).toNat = x.toNat * 2 ^ n + y.toNat := by
  rw [BitVec.toNat_append, Nat.shiftLeft_eq, Nat.mul_comm, ← Nat.two_pow_add_eq_or_of_lt y.isLt]

/-- A word from its opcode, w[23:8] and w[7:0]. -/
theorem word_toNat (op d : Byte) (a : LAddr) :
    (op ++ a ++ d : Word).toNat = op.toNat * 2 ^ 24 + a.toNat * 2 ^ 8 + d.toNat := by
  have h : (op ++ a ++ d : BitVec (8 + 16 + 8)).toNat = (op.toNat * 2 ^ 16 + a.toNat) * 2 ^ 8 + d.toNat := by
    rw [append_toNat, append_toNat]
  have e : (op ++ a ++ d : Word).toNat = (op ++ a ++ d : BitVec (8 + 16 + 8)).toNat := rfl
  rw [e, h, Nat.add_mul, Nat.mul_assoc, ← Nat.pow_add]

theorem opcodeOf_toNat (w : Word) : (opcodeOf w).toNat = w.toNat / 2 ^ 24 := by
  unfold opcodeOf
  rw [BitVec.extractLsb'_toNat, Nat.shiftRight_eq_div_pow]
  have := w.isLt
  omega

theorem fieldAddr_toNat (w : Word) : (fieldAddr w).toNat = w.toNat / 2 ^ 8 % 2 ^ 16 := by
  unfold fieldAddr
  rw [BitVec.extractLsb'_toNat, Nat.shiftRight_eq_div_pow]

theorem field7to0_toNat (w : Word) : (field7to0 w).toNat = w.toNat % 2 ^ 8 := by
  unfold field7to0
  rw [BitVec.extractLsb'_toNat, Nat.shiftRight_eq_div_pow, Nat.pow_zero, Nat.div_one]

theorem field15to8_toNat (w : Word) : (field15to8 w).toNat = w.toNat / 2 ^ 8 % 2 ^ 8 := by
  unfold field15to8
  rw [BitVec.extractLsb'_toNat, Nat.shiftRight_eq_div_pow]

theorem field23to16_toNat (w : Word) : (field23to16 w).toNat = w.toNat / 2 ^ 16 % 2 ^ 8 := by
  unfold field23to16
  rw [BitVec.extractLsb'_toNat, Nat.shiftRight_eq_div_pow]

theorem operands_toNat (w : Word) : (w.extractLsb' 0 24).toNat = w.toNat % 2 ^ 24 := by
  rw [BitVec.extractLsb'_toNat, Nat.shiftRight_eq_div_pow, Nat.pow_zero, Nat.div_one]

@[simp] theorem opcodeOf_word (op d : Byte) (a : LAddr) : opcodeOf (op ++ a ++ d) = op := by
  apply BitVec.eq_of_toNat_eq
  rw [opcodeOf_toNat, word_toNat]
  have := a.isLt
  have := d.isLt
  omega

@[simp] theorem fieldAddr_word (op d : Byte) (a : LAddr) : fieldAddr (op ++ a ++ d) = a := by
  apply BitVec.eq_of_toNat_eq
  rw [fieldAddr_toNat, word_toNat]
  have := a.isLt
  have := d.isLt
  omega

@[simp] theorem field7to0_word (op d : Byte) (a : LAddr) : field7to0 (op ++ a ++ d) = d := by
  apply BitVec.eq_of_toNat_eq
  rw [field7to0_toNat, word_toNat]
  have := d.isLt
  omega

/-- Every word is its three parts put together. -/
theorem word_of_fields (w : Word) : opcodeOf w ++ fieldAddr w ++ field7to0 w = w := by
  apply BitVec.eq_of_toNat_eq
  rw [word_toNat, opcodeOf_toNat, fieldAddr_toNat, field7to0_toNat]
  omega

/-- Format I as opcode, middle 16 bits, low byte. -/
theorem formatI_word (op z d o : Byte) : (op ++ z ++ d ++ o : Word) = op ++ (z ++ d : LAddr) ++ o := by
  apply BitVec.eq_of_toNat_eq
  rw [word_toNat]
  have e : (op ++ z ++ d ++ o : Word).toNat = (op ++ z ++ d ++ o : BitVec (8 + 8 + 8 + 8)).toNat := rfl
  have e2 : (z ++ d : LAddr).toNat = (z ++ d : BitVec (8 + 8)).toNat := rfl
  rw [e, e2, append_toNat, append_toNat, append_toNat, append_toNat]
  omega

theorem field15to8_formatI (op z d o : Byte) : field15to8 (op ++ z ++ d ++ o) = d := by
  apply BitVec.eq_of_toNat_eq
  have e : (op ++ z ++ d ++ o : Word).toNat = (op ++ z ++ d ++ o : BitVec (8 + 8 + 8 + 8)).toNat := rfl
  rw [field15to8_toNat, e, append_toNat, append_toNat, append_toNat]
  have := d.isLt
  have := o.isLt
  omega

theorem field23to16_formatI (op z d o : Byte) : field23to16 (op ++ z ++ d ++ o) = z := by
  apply BitVec.eq_of_toNat_eq
  have e : (op ++ z ++ d ++ o : Word).toNat = (op ++ z ++ d ++ o : BitVec (8 + 8 + 8 + 8)).toNat := rfl
  rw [field23to16_toNat, e, append_toNat, append_toNat, append_toNat]
  have := z.isLt
  have := d.isLt
  have := o.isLt
  omega

/-! ### Reading an encoded command word -/

theorem readCommand_encodeSeq (c : SeqCmd) : readCommand (encodeSeq c) = .ok (.sequencer c) := by
  cases c <;> simp [encodeSeq, readCommand, ifZero]

theorem readCommand_init (d o : Byte) : readCommand (encodeEngine (.init d o)) = .ok (.engine (.init d o)) := by
  have h0 : opcodeOf (encodeEngine (.init d o)) = 0x01#8 := by
    rw [encodeEngine, formatI_word, opcodeOf_word]
  have h1 : field23to16 (encodeEngine (.init d o)) = 0#8 := field23to16_formatI _ _ _ _
  have h2 : field15to8 (encodeEngine (.init d o)) = d := field15to8_formatI _ _ _ _
  have h3 : field7to0 (encodeEngine (.init d o)) = o := by
    rw [encodeEngine, formatI_word, field7to0_word]
  simp [readCommand, ifZero, h0, h1, h2, h3]

theorem readCommand_write (b : Byte) : readCommand (encodeEngine (.write b)) = .ok (.engine (.write b)) := by
  have h0 : opcodeOf (encodeEngine (.write b)) = 0x04#8 := opcodeOf_word _ _ _
  have h1 : fieldAddr (encodeEngine (.write b)) = 0#16 := fieldAddr_word _ _ _
  have h2 : field7to0 (encodeEngine (.write b)) = b := field7to0_word _ _ _
  simp [readCommand, ifZero, h0, h1, h2]

theorem readCommand_encodeEngine (c : EngineCmd) : readCommand (encodeEngine c) = .ok (.engine c) := by
  cases c with
  | init d o => exact readCommand_init d o
  | write b => exact readCommand_write b
  | start => decide
  | stop => decide
  | readAck => decide
  | readNack => decide

/-- R65 to R68: the word of a command reads as that command. -/
theorem readCommand_encodeCommand (c : Command) : readCommand (encodeCommand c) = .ok c := by
  cases c with
  | engine c => exact readCommand_encodeEngine c
  | sequencer c => exact readCommand_encodeSeq c

/-- A word that reads as no command is rejected as reserved. -/
theorem readCommand_error {w : Word} {r : Reject} (h : readCommand w = .error r) : r = .reservedEncoding w := by
  unfold readCommand ifZero at h
  repeat' split at h
  all_goals first | (cases h; done) | (injection h with h; exact h.symm)

end Sys2Proof
end

