-- ==== Sys2Proof/Laws/State.lean ====
section
/-! SUPPORT. What each named update does to each field of State: one lemma per field per update, so that no proof unfolds a
record update. -/

namespace Sys2Proof.Machine

variable (s : State)

/-! ### raise (R109) -/

@[simp] theorem State.raise_cfg (why : Stop) : (s.raise why).cfg = s.cfg := rfl
@[simp] theorem State.raise_en (why : Stop) : (s.raise why).en = s.en := rfl
@[simp] theorem State.raise_div (why : Stop) : (s.raise why).div = s.div := rfl
@[simp] theorem State.raise_ownaddr (why : Stop) : (s.raise why).ownaddr = s.ownaddr := rfl
@[simp] theorem State.raise_ready (why : Stop) : (s.raise why).ready = s.ready := rfl
@[simp] theorem State.raise_statusRaw (why : Stop) : (s.raise why).statusRaw = s.statusRaw := rfl
@[simp] theorem State.raise_data (why : Stop) : (s.raise why).data = s.data := rfl
@[simp] theorem State.raise_phase (why : Stop) : (s.raise why).phase = s.phase := rfl
@[simp] theorem State.raise_busy (why : Stop) : (s.raise why).busy = s.busy := rfl
@[simp] theorem State.raise_pend (why : Stop) : (s.raise why).pend = s.pend := rfl
@[simp] theorem State.raise_seqReady (why : Stop) : (s.raise why).seqReady = s.seqReady := rfl
@[simp] theorem State.raise_result (why : Stop) : (s.raise why).result = s.result := rfl
@[simp] theorem State.raise_rdata (why : Stop) : (s.raise why).rdata = s.rdata := rfl
@[simp] theorem State.raise_buf (why : Stop) : (s.raise why).buf = s.buf := rfl
@[simp] theorem State.raise_seqOp (why : Stop) : (s.raise why).seqOp = s.seqOp := rfl
@[simp] theorem State.raise_seqPc (why : Stop) : (s.raise why).seqPc = s.seqPc := rfl
@[simp] theorem State.raise_seqIssued (why : Stop) : (s.raise why).seqIssued = s.seqIssued := rfl
@[simp] theorem State.raise_seqAddr (why : Stop) : (s.raise why).seqAddr = s.seqAddr := rfl
@[simp] theorem State.raise_seqData (why : Stop) : (s.raise why).seqData = s.seqData := rfl
@[simp] theorem State.raise_seqBase (why : Stop) : (s.raise why).seqBase = s.seqBase := rfl
@[simp] theorem State.raise_seqN (why : Stop) : (s.raise why).seqN = s.seqN := rfl
@[simp] theorem State.raise_seqI (why : Stop) : (s.raise why).seqI = s.seqI := rfl
@[simp] theorem State.raise_seqR (why : Stop) : (s.raise why).seqR = s.seqR := rfl
@[simp] theorem State.raise_seqRd (why : Stop) : (s.raise why).seqRd = s.seqRd := rfl
@[simp] theorem State.raise_trace (why : Stop) : (s.raise why).trace = s.trace := rfl
@[simp] theorem State.raise_faulted (why : Stop) : (s.raise why).faulted = some why := rfl
@[simp] theorem State.raise_dev (why : Stop) : (s.raise why).dev = s.dev := rfl
@[simp] theorem State.raise_host (why : Stop) : (s.raise why).host = s.host := rfl
@[simp] theorem State.raise_hostReads (why : Stop) : (s.raise why).hostReads = s.hostReads := rfl
@[simp] theorem State.raise_turns (why : Stop) : (s.raise why).turns = s.turns := rfl
@[simp] theorem State.raise_answers (why : Stop) : (s.raise why).answers = s.answers := rfl
@[simp] theorem State.raise_drawn (why : Stop) : (s.raise why).drawn = s.drawn := rfl

/-! ### emit (R11) -/

@[simp] theorem State.emit_cfg (e : BusEvent) : (s.emit e).cfg = s.cfg := rfl
@[simp] theorem State.emit_en (e : BusEvent) : (s.emit e).en = s.en := rfl
@[simp] theorem State.emit_div (e : BusEvent) : (s.emit e).div = s.div := rfl
@[simp] theorem State.emit_ownaddr (e : BusEvent) : (s.emit e).ownaddr = s.ownaddr := rfl
@[simp] theorem State.emit_ready (e : BusEvent) : (s.emit e).ready = s.ready := rfl
@[simp] theorem State.emit_statusRaw (e : BusEvent) : (s.emit e).statusRaw = s.statusRaw := rfl
@[simp] theorem State.emit_data (e : BusEvent) : (s.emit e).data = s.data := rfl
@[simp] theorem State.emit_phase (e : BusEvent) : (s.emit e).phase = s.phase := rfl
@[simp] theorem State.emit_busy (e : BusEvent) : (s.emit e).busy = s.busy := rfl
@[simp] theorem State.emit_pend (e : BusEvent) : (s.emit e).pend = s.pend := rfl
@[simp] theorem State.emit_seqReady (e : BusEvent) : (s.emit e).seqReady = s.seqReady := rfl
@[simp] theorem State.emit_result (e : BusEvent) : (s.emit e).result = s.result := rfl
@[simp] theorem State.emit_rdata (e : BusEvent) : (s.emit e).rdata = s.rdata := rfl
@[simp] theorem State.emit_buf (e : BusEvent) : (s.emit e).buf = s.buf := rfl
@[simp] theorem State.emit_seqOp (e : BusEvent) : (s.emit e).seqOp = s.seqOp := rfl
@[simp] theorem State.emit_seqPc (e : BusEvent) : (s.emit e).seqPc = s.seqPc := rfl
@[simp] theorem State.emit_seqIssued (e : BusEvent) : (s.emit e).seqIssued = s.seqIssued := rfl
@[simp] theorem State.emit_seqAddr (e : BusEvent) : (s.emit e).seqAddr = s.seqAddr := rfl
@[simp] theorem State.emit_seqData (e : BusEvent) : (s.emit e).seqData = s.seqData := rfl
@[simp] theorem State.emit_seqBase (e : BusEvent) : (s.emit e).seqBase = s.seqBase := rfl
@[simp] theorem State.emit_seqN (e : BusEvent) : (s.emit e).seqN = s.seqN := rfl
@[simp] theorem State.emit_seqI (e : BusEvent) : (s.emit e).seqI = s.seqI := rfl
@[simp] theorem State.emit_seqR (e : BusEvent) : (s.emit e).seqR = s.seqR := rfl
@[simp] theorem State.emit_seqRd (e : BusEvent) : (s.emit e).seqRd = s.seqRd := rfl
@[simp] theorem State.emit_trace (e : BusEvent) : (s.emit e).trace = s.trace ++ [e] := rfl
@[simp] theorem State.emit_faulted (e : BusEvent) : (s.emit e).faulted = s.faulted := rfl
@[simp] theorem State.emit_dev (e : BusEvent) : (s.emit e).dev = s.dev := rfl
@[simp] theorem State.emit_host (e : BusEvent) : (s.emit e).host = s.host := rfl
@[simp] theorem State.emit_hostReads (e : BusEvent) : (s.emit e).hostReads = s.hostReads := rfl
@[simp] theorem State.emit_turns (e : BusEvent) : (s.emit e).turns = s.turns := rfl
@[simp] theorem State.emit_answers (e : BusEvent) : (s.emit e).answers = s.answers := rfl
@[simp] theorem State.emit_drawn (e : BusEvent) : (s.emit e).drawn = s.drawn := rfl

/-! ### deliver (R69) -/

@[simp] theorem State.deliver_cfg (p : Port) (v : Word) : (s.deliver p v).cfg = s.cfg := rfl
@[simp] theorem State.deliver_en (p : Port) (v : Word) : (s.deliver p v).en = s.en := rfl
@[simp] theorem State.deliver_div (p : Port) (v : Word) : (s.deliver p v).div = s.div := rfl
@[simp] theorem State.deliver_ownaddr (p : Port) (v : Word) : (s.deliver p v).ownaddr = s.ownaddr := rfl
@[simp] theorem State.deliver_ready (p : Port) (v : Word) : (s.deliver p v).ready = s.ready := rfl
@[simp] theorem State.deliver_statusRaw (p : Port) (v : Word) : (s.deliver p v).statusRaw = s.statusRaw := rfl
@[simp] theorem State.deliver_data (p : Port) (v : Word) : (s.deliver p v).data = s.data := rfl
@[simp] theorem State.deliver_phase (p : Port) (v : Word) : (s.deliver p v).phase = s.phase := rfl
@[simp] theorem State.deliver_busy (p : Port) (v : Word) : (s.deliver p v).busy = s.busy := rfl
@[simp] theorem State.deliver_pend (p : Port) (v : Word) : (s.deliver p v).pend = s.pend := rfl
@[simp] theorem State.deliver_seqReady (p : Port) (v : Word) : (s.deliver p v).seqReady = s.seqReady := rfl
@[simp] theorem State.deliver_result (p : Port) (v : Word) : (s.deliver p v).result = s.result := rfl
@[simp] theorem State.deliver_rdata (p : Port) (v : Word) : (s.deliver p v).rdata = s.rdata := rfl
@[simp] theorem State.deliver_buf (p : Port) (v : Word) : (s.deliver p v).buf = s.buf := rfl
@[simp] theorem State.deliver_seqOp (p : Port) (v : Word) : (s.deliver p v).seqOp = s.seqOp := rfl
@[simp] theorem State.deliver_seqPc (p : Port) (v : Word) : (s.deliver p v).seqPc = s.seqPc := rfl
@[simp] theorem State.deliver_seqIssued (p : Port) (v : Word) : (s.deliver p v).seqIssued = s.seqIssued := rfl
@[simp] theorem State.deliver_seqAddr (p : Port) (v : Word) : (s.deliver p v).seqAddr = s.seqAddr := rfl
@[simp] theorem State.deliver_seqData (p : Port) (v : Word) : (s.deliver p v).seqData = s.seqData := rfl
@[simp] theorem State.deliver_seqBase (p : Port) (v : Word) : (s.deliver p v).seqBase = s.seqBase := rfl
@[simp] theorem State.deliver_seqN (p : Port) (v : Word) : (s.deliver p v).seqN = s.seqN := rfl
@[simp] theorem State.deliver_seqI (p : Port) (v : Word) : (s.deliver p v).seqI = s.seqI := rfl
@[simp] theorem State.deliver_seqR (p : Port) (v : Word) : (s.deliver p v).seqR = s.seqR := rfl
@[simp] theorem State.deliver_seqRd (p : Port) (v : Word) : (s.deliver p v).seqRd = s.seqRd := rfl
@[simp] theorem State.deliver_trace (p : Port) (v : Word) : (s.deliver p v).trace = s.trace := rfl
@[simp] theorem State.deliver_faulted (p : Port) (v : Word) : (s.deliver p v).faulted = s.faulted := rfl
@[simp] theorem State.deliver_dev (p : Port) (v : Word) : (s.deliver p v).dev = s.dev := rfl
@[simp] theorem State.deliver_host (p : Port) (v : Word) : (s.deliver p v).host = s.host := rfl
@[simp] theorem State.deliver_hostReads (p : Port) (v : Word) : (s.deliver p v).hostReads = s.hostReads ++ [(p, v)] := rfl
@[simp] theorem State.deliver_turns (p : Port) (v : Word) : (s.deliver p v).turns = s.turns := rfl
@[simp] theorem State.deliver_answers (p : Port) (v : Word) : (s.deliver p v).answers = s.answers := rfl
@[simp] theorem State.deliver_drawn (p : Port) (v : Word) : (s.deliver p v).drawn = s.drawn := rfl

/-! ### beginPhase (R85, R87 to R89) -/

@[simp] theorem State.beginPhase_cfg (c : Pending) : (s.beginPhase c).cfg = s.cfg := rfl
@[simp] theorem State.beginPhase_en (c : Pending) : (s.beginPhase c).en = s.en := rfl
@[simp] theorem State.beginPhase_div (c : Pending) : (s.beginPhase c).div = s.div := rfl
@[simp] theorem State.beginPhase_ownaddr (c : Pending) : (s.beginPhase c).ownaddr = s.ownaddr := rfl
@[simp] theorem State.beginPhase_ready (c : Pending) : (s.beginPhase c).ready = false := rfl
@[simp] theorem State.beginPhase_statusRaw (c : Pending) : (s.beginPhase c).statusRaw = none := rfl
@[simp] theorem State.beginPhase_data (c : Pending) : (s.beginPhase c).data = s.data := rfl
@[simp] theorem State.beginPhase_phase (c : Pending) : (s.beginPhase c).phase = s.phase := rfl
@[simp] theorem State.beginPhase_busy (c : Pending) : (s.beginPhase c).busy = true := rfl
@[simp] theorem State.beginPhase_pend (c : Pending) : (s.beginPhase c).pend = some c := rfl
@[simp] theorem State.beginPhase_seqReady (c : Pending) : (s.beginPhase c).seqReady = s.seqReady := rfl
@[simp] theorem State.beginPhase_result (c : Pending) : (s.beginPhase c).result = s.result := rfl
@[simp] theorem State.beginPhase_rdata (c : Pending) : (s.beginPhase c).rdata = s.rdata := rfl
@[simp] theorem State.beginPhase_buf (c : Pending) : (s.beginPhase c).buf = s.buf := rfl
@[simp] theorem State.beginPhase_seqOp (c : Pending) : (s.beginPhase c).seqOp = s.seqOp := rfl
@[simp] theorem State.beginPhase_seqPc (c : Pending) : (s.beginPhase c).seqPc = s.seqPc := rfl
@[simp] theorem State.beginPhase_seqIssued (c : Pending) : (s.beginPhase c).seqIssued = s.seqIssued := rfl
@[simp] theorem State.beginPhase_seqAddr (c : Pending) : (s.beginPhase c).seqAddr = s.seqAddr := rfl
@[simp] theorem State.beginPhase_seqData (c : Pending) : (s.beginPhase c).seqData = s.seqData := rfl
@[simp] theorem State.beginPhase_seqBase (c : Pending) : (s.beginPhase c).seqBase = s.seqBase := rfl
@[simp] theorem State.beginPhase_seqN (c : Pending) : (s.beginPhase c).seqN = s.seqN := rfl
@[simp] theorem State.beginPhase_seqI (c : Pending) : (s.beginPhase c).seqI = s.seqI := rfl
@[simp] theorem State.beginPhase_seqR (c : Pending) : (s.beginPhase c).seqR = s.seqR := rfl
@[simp] theorem State.beginPhase_seqRd (c : Pending) : (s.beginPhase c).seqRd = s.seqRd := rfl
@[simp] theorem State.beginPhase_trace (c : Pending) : (s.beginPhase c).trace = s.trace := rfl
@[simp] theorem State.beginPhase_faulted (c : Pending) : (s.beginPhase c).faulted = s.faulted := rfl
@[simp] theorem State.beginPhase_dev (c : Pending) : (s.beginPhase c).dev = s.dev := rfl
@[simp] theorem State.beginPhase_host (c : Pending) : (s.beginPhase c).host = s.host := rfl
@[simp] theorem State.beginPhase_hostReads (c : Pending) : (s.beginPhase c).hostReads = s.hostReads := rfl
@[simp] theorem State.beginPhase_turns (c : Pending) : (s.beginPhase c).turns = s.turns := rfl
@[simp] theorem State.beginPhase_answers (c : Pending) : (s.beginPhase c).answers = s.answers := rfl
@[simp] theorem State.beginPhase_drawn (c : Pending) : (s.beginPhase c).drawn = s.drawn := rfl

/-! ### finishPhase (R82) -/

@[simp] theorem State.finishPhase_cfg (n : StatusName) (low : BitVec 3) : (s.finishPhase n low).cfg = s.cfg := rfl
@[simp] theorem State.finishPhase_en (n : StatusName) (low : BitVec 3) : (s.finishPhase n low).en = s.en := rfl
@[simp] theorem State.finishPhase_div (n : StatusName) (low : BitVec 3) : (s.finishPhase n low).div = s.div := rfl
@[simp] theorem State.finishPhase_ownaddr (n : StatusName) (low : BitVec 3) : (s.finishPhase n low).ownaddr = s.ownaddr := rfl
@[simp] theorem State.finishPhase_ready (n : StatusName) (low : BitVec 3) : (s.finishPhase n low).ready = true := rfl
@[simp] theorem State.finishPhase_statusRaw (n : StatusName) (low : BitVec 3) : (s.finishPhase n low).statusRaw = some (s.cfg.sc.code n ||| low.setWidth 8) := rfl
@[simp] theorem State.finishPhase_data (n : StatusName) (low : BitVec 3) : (s.finishPhase n low).data = s.data := rfl
@[simp] theorem State.finishPhase_phase (n : StatusName) (low : BitVec 3) : (s.finishPhase n low).phase = s.phase := rfl
@[simp] theorem State.finishPhase_busy (n : StatusName) (low : BitVec 3) : (s.finishPhase n low).busy = false := rfl
@[simp] theorem State.finishPhase_pend (n : StatusName) (low : BitVec 3) : (s.finishPhase n low).pend = none := rfl
@[simp] theorem State.finishPhase_seqReady (n : StatusName) (low : BitVec 3) : (s.finishPhase n low).seqReady = s.seqReady := rfl
@[simp] theorem State.finishPhase_result (n : StatusName) (low : BitVec 3) : (s.finishPhase n low).result = s.result := rfl
@[simp] theorem State.finishPhase_rdata (n : StatusName) (low : BitVec 3) : (s.finishPhase n low).rdata = s.rdata := rfl
@[simp] theorem State.finishPhase_buf (n : StatusName) (low : BitVec 3) : (s.finishPhase n low).buf = s.buf := rfl
@[simp] theorem State.finishPhase_seqOp (n : StatusName) (low : BitVec 3) : (s.finishPhase n low).seqOp = s.seqOp := rfl
@[simp] theorem State.finishPhase_seqPc (n : StatusName) (low : BitVec 3) : (s.finishPhase n low).seqPc = s.seqPc := rfl
@[simp] theorem State.finishPhase_seqIssued (n : StatusName) (low : BitVec 3) : (s.finishPhase n low).seqIssued = s.seqIssued := rfl
@[simp] theorem State.finishPhase_seqAddr (n : StatusName) (low : BitVec 3) : (s.finishPhase n low).seqAddr = s.seqAddr := rfl
@[simp] theorem State.finishPhase_seqData (n : StatusName) (low : BitVec 3) : (s.finishPhase n low).seqData = s.seqData := rfl
@[simp] theorem State.finishPhase_seqBase (n : StatusName) (low : BitVec 3) : (s.finishPhase n low).seqBase = s.seqBase := rfl
@[simp] theorem State.finishPhase_seqN (n : StatusName) (low : BitVec 3) : (s.finishPhase n low).seqN = s.seqN := rfl
@[simp] theorem State.finishPhase_seqI (n : StatusName) (low : BitVec 3) : (s.finishPhase n low).seqI = s.seqI := rfl
@[simp] theorem State.finishPhase_seqR (n : StatusName) (low : BitVec 3) : (s.finishPhase n low).seqR = s.seqR := rfl
@[simp] theorem State.finishPhase_seqRd (n : StatusName) (low : BitVec 3) : (s.finishPhase n low).seqRd = s.seqRd := rfl
@[simp] theorem State.finishPhase_trace (n : StatusName) (low : BitVec 3) : (s.finishPhase n low).trace = s.trace := rfl
@[simp] theorem State.finishPhase_faulted (n : StatusName) (low : BitVec 3) : (s.finishPhase n low).faulted = s.faulted := rfl
@[simp] theorem State.finishPhase_dev (n : StatusName) (low : BitVec 3) : (s.finishPhase n low).dev = s.dev := rfl
@[simp] theorem State.finishPhase_host (n : StatusName) (low : BitVec 3) : (s.finishPhase n low).host = s.host := rfl
@[simp] theorem State.finishPhase_hostReads (n : StatusName) (low : BitVec 3) : (s.finishPhase n low).hostReads = s.hostReads := rfl
@[simp] theorem State.finishPhase_turns (n : StatusName) (low : BitVec 3) : (s.finishPhase n low).turns = s.turns := rfl
@[simp] theorem State.finishPhase_answers (n : StatusName) (low : BitVec 3) : (s.finishPhase n low).answers = s.answers := rfl
@[simp] theorem State.finishPhase_drawn (n : StatusName) (low : BitVec 3) : (s.finishPhase n low).drawn = s.drawn := rfl

/-! ### initEngine (R84) -/

@[simp] theorem State.initEngine_cfg (div own : Byte) : (s.initEngine div own).cfg = s.cfg := rfl
@[simp] theorem State.initEngine_en (div own : Byte) : (s.initEngine div own).en = true := rfl
@[simp] theorem State.initEngine_div (div own : Byte) : (s.initEngine div own).div = div := rfl
@[simp] theorem State.initEngine_ownaddr (div own : Byte) : (s.initEngine div own).ownaddr = own := rfl
@[simp] theorem State.initEngine_ready (div own : Byte) : (s.initEngine div own).ready = s.ready := rfl
@[simp] theorem State.initEngine_statusRaw (div own : Byte) : (s.initEngine div own).statusRaw = none := rfl
@[simp] theorem State.initEngine_data (div own : Byte) : (s.initEngine div own).data = s.data := rfl
@[simp] theorem State.initEngine_phase (div own : Byte) : (s.initEngine div own).phase = .idle := rfl
@[simp] theorem State.initEngine_busy (div own : Byte) : (s.initEngine div own).busy = s.busy := rfl
@[simp] theorem State.initEngine_pend (div own : Byte) : (s.initEngine div own).pend = s.pend := rfl
@[simp] theorem State.initEngine_seqReady (div own : Byte) : (s.initEngine div own).seqReady = s.seqReady := rfl
@[simp] theorem State.initEngine_result (div own : Byte) : (s.initEngine div own).result = s.result := rfl
@[simp] theorem State.initEngine_rdata (div own : Byte) : (s.initEngine div own).rdata = s.rdata := rfl
@[simp] theorem State.initEngine_buf (div own : Byte) : (s.initEngine div own).buf = s.buf := rfl
@[simp] theorem State.initEngine_seqOp (div own : Byte) : (s.initEngine div own).seqOp = s.seqOp := rfl
@[simp] theorem State.initEngine_seqPc (div own : Byte) : (s.initEngine div own).seqPc = s.seqPc := rfl
@[simp] theorem State.initEngine_seqIssued (div own : Byte) : (s.initEngine div own).seqIssued = s.seqIssued := rfl
@[simp] theorem State.initEngine_seqAddr (div own : Byte) : (s.initEngine div own).seqAddr = s.seqAddr := rfl
@[simp] theorem State.initEngine_seqData (div own : Byte) : (s.initEngine div own).seqData = s.seqData := rfl
@[simp] theorem State.initEngine_seqBase (div own : Byte) : (s.initEngine div own).seqBase = s.seqBase := rfl
@[simp] theorem State.initEngine_seqN (div own : Byte) : (s.initEngine div own).seqN = s.seqN := rfl
@[simp] theorem State.initEngine_seqI (div own : Byte) : (s.initEngine div own).seqI = s.seqI := rfl
@[simp] theorem State.initEngine_seqR (div own : Byte) : (s.initEngine div own).seqR = s.seqR := rfl
@[simp] theorem State.initEngine_seqRd (div own : Byte) : (s.initEngine div own).seqRd = s.seqRd := rfl
@[simp] theorem State.initEngine_trace (div own : Byte) : (s.initEngine div own).trace = s.trace := rfl
@[simp] theorem State.initEngine_faulted (div own : Byte) : (s.initEngine div own).faulted = s.faulted := rfl
@[simp] theorem State.initEngine_dev (div own : Byte) : (s.initEngine div own).dev = s.dev := rfl
@[simp] theorem State.initEngine_host (div own : Byte) : (s.initEngine div own).host = s.host := rfl
@[simp] theorem State.initEngine_hostReads (div own : Byte) : (s.initEngine div own).hostReads = s.hostReads := rfl
@[simp] theorem State.initEngine_turns (div own : Byte) : (s.initEngine div own).turns = s.turns := rfl
@[simp] theorem State.initEngine_answers (div own : Byte) : (s.initEngine div own).answers = s.answers := rfl
@[simp] theorem State.initEngine_drawn (div own : Byte) : (s.initEngine div own).drawn = s.drawn := rfl

/-! ### stopEngine (R86) -/

@[simp] theorem State.stopEngine_cfg : s.stopEngine.cfg = s.cfg := rfl
@[simp] theorem State.stopEngine_en : s.stopEngine.en = s.en := rfl
@[simp] theorem State.stopEngine_div : s.stopEngine.div = s.div := rfl
@[simp] theorem State.stopEngine_ownaddr : s.stopEngine.ownaddr = s.ownaddr := rfl
@[simp] theorem State.stopEngine_ready : s.stopEngine.ready = false := rfl
@[simp] theorem State.stopEngine_statusRaw : s.stopEngine.statusRaw = none := rfl
@[simp] theorem State.stopEngine_data : s.stopEngine.data = s.data := rfl
@[simp] theorem State.stopEngine_phase : s.stopEngine.phase = .idle := rfl
@[simp] theorem State.stopEngine_busy : s.stopEngine.busy = s.busy := rfl
@[simp] theorem State.stopEngine_pend : s.stopEngine.pend = s.pend := rfl
@[simp] theorem State.stopEngine_seqReady : s.stopEngine.seqReady = s.seqReady := rfl
@[simp] theorem State.stopEngine_result : s.stopEngine.result = s.result := rfl
@[simp] theorem State.stopEngine_rdata : s.stopEngine.rdata = s.rdata := rfl
@[simp] theorem State.stopEngine_buf : s.stopEngine.buf = s.buf := rfl
@[simp] theorem State.stopEngine_seqOp : s.stopEngine.seqOp = s.seqOp := rfl
@[simp] theorem State.stopEngine_seqPc : s.stopEngine.seqPc = s.seqPc := rfl
@[simp] theorem State.stopEngine_seqIssued : s.stopEngine.seqIssued = s.seqIssued := rfl
@[simp] theorem State.stopEngine_seqAddr : s.stopEngine.seqAddr = s.seqAddr := rfl
@[simp] theorem State.stopEngine_seqData : s.stopEngine.seqData = s.seqData := rfl
@[simp] theorem State.stopEngine_seqBase : s.stopEngine.seqBase = s.seqBase := rfl
@[simp] theorem State.stopEngine_seqN : s.stopEngine.seqN = s.seqN := rfl
@[simp] theorem State.stopEngine_seqI : s.stopEngine.seqI = s.seqI := rfl
@[simp] theorem State.stopEngine_seqR : s.stopEngine.seqR = s.seqR := rfl
@[simp] theorem State.stopEngine_seqRd : s.stopEngine.seqRd = s.seqRd := rfl
@[simp] theorem State.stopEngine_trace : s.stopEngine.trace = s.trace ++ [.p] := rfl
@[simp] theorem State.stopEngine_faulted : s.stopEngine.faulted = s.faulted := rfl
@[simp] theorem State.stopEngine_dev : s.stopEngine.dev = s.dev := rfl
@[simp] theorem State.stopEngine_host : s.stopEngine.host = s.host := rfl
@[simp] theorem State.stopEngine_hostReads : s.stopEngine.hostReads = s.hostReads := rfl
@[simp] theorem State.stopEngine_turns : s.stopEngine.turns = s.turns := rfl
@[simp] theorem State.stopEngine_answers : s.stopEngine.answers = s.answers := rfl
@[simp] theorem State.stopEngine_drawn : s.stopEngine.drawn = s.drawn := rfl

/-! ### beginOp (R94) -/

@[simp] theorem State.beginOp_cfg (c : SeqCmd) : (s.beginOp c).cfg = s.cfg := rfl
@[simp] theorem State.beginOp_en (c : SeqCmd) : (s.beginOp c).en = s.en := rfl
@[simp] theorem State.beginOp_div (c : SeqCmd) : (s.beginOp c).div = s.div := rfl
@[simp] theorem State.beginOp_ownaddr (c : SeqCmd) : (s.beginOp c).ownaddr = s.ownaddr := rfl
@[simp] theorem State.beginOp_ready (c : SeqCmd) : (s.beginOp c).ready = s.ready := rfl
@[simp] theorem State.beginOp_statusRaw (c : SeqCmd) : (s.beginOp c).statusRaw = s.statusRaw := rfl
@[simp] theorem State.beginOp_data (c : SeqCmd) : (s.beginOp c).data = s.data := rfl
@[simp] theorem State.beginOp_phase (c : SeqCmd) : (s.beginOp c).phase = s.phase := rfl
@[simp] theorem State.beginOp_busy (c : SeqCmd) : (s.beginOp c).busy = s.busy := rfl
@[simp] theorem State.beginOp_pend (c : SeqCmd) : (s.beginOp c).pend = s.pend := rfl
@[simp] theorem State.beginOp_seqReady (c : SeqCmd) : (s.beginOp c).seqReady = false := rfl
@[simp] theorem State.beginOp_result (c : SeqCmd) : (s.beginOp c).result = none := rfl
@[simp] theorem State.beginOp_rdata (c : SeqCmd) : (s.beginOp c).rdata = s.rdata := rfl
@[simp] theorem State.beginOp_buf (c : SeqCmd) : (s.beginOp c).buf = s.buf := rfl
@[simp] theorem State.beginOp_seqOp (c : SeqCmd) : (s.beginOp c).seqOp = some c := rfl
@[simp] theorem State.beginOp_seqPc (c : SeqCmd) : (s.beginOp c).seqPc = s.seqPc := rfl
@[simp] theorem State.beginOp_seqIssued (c : SeqCmd) : (s.beginOp c).seqIssued = false := rfl
@[simp] theorem State.beginOp_seqAddr (c : SeqCmd) : (s.beginOp c).seqAddr = s.seqAddr := rfl
@[simp] theorem State.beginOp_seqData (c : SeqCmd) : (s.beginOp c).seqData = s.seqData := rfl
@[simp] theorem State.beginOp_seqBase (c : SeqCmd) : (s.beginOp c).seqBase = s.seqBase := rfl
@[simp] theorem State.beginOp_seqN (c : SeqCmd) : (s.beginOp c).seqN = s.seqN := rfl
@[simp] theorem State.beginOp_seqI (c : SeqCmd) : (s.beginOp c).seqI = s.seqI := rfl
@[simp] theorem State.beginOp_seqR (c : SeqCmd) : (s.beginOp c).seqR = s.seqR := rfl
@[simp] theorem State.beginOp_seqRd (c : SeqCmd) : (s.beginOp c).seqRd = s.seqRd := rfl
@[simp] theorem State.beginOp_trace (c : SeqCmd) : (s.beginOp c).trace = s.trace := rfl
@[simp] theorem State.beginOp_faulted (c : SeqCmd) : (s.beginOp c).faulted = s.faulted := rfl
@[simp] theorem State.beginOp_dev (c : SeqCmd) : (s.beginOp c).dev = s.dev := rfl
@[simp] theorem State.beginOp_host (c : SeqCmd) : (s.beginOp c).host = s.host := rfl
@[simp] theorem State.beginOp_hostReads (c : SeqCmd) : (s.beginOp c).hostReads = s.hostReads := rfl
@[simp] theorem State.beginOp_turns (c : SeqCmd) : (s.beginOp c).turns = s.turns := rfl
@[simp] theorem State.beginOp_answers (c : SeqCmd) : (s.beginOp c).answers = s.answers := rfl
@[simp] theorem State.beginOp_drawn (c : SeqCmd) : (s.beginOp c).drawn = s.drawn := rfl

/-! ### goto (R95) -/

@[simp] theorem State.goto_cfg (l : SeqPc) : (s.goto l).cfg = s.cfg := rfl
@[simp] theorem State.goto_en (l : SeqPc) : (s.goto l).en = s.en := rfl
@[simp] theorem State.goto_div (l : SeqPc) : (s.goto l).div = s.div := rfl
@[simp] theorem State.goto_ownaddr (l : SeqPc) : (s.goto l).ownaddr = s.ownaddr := rfl
@[simp] theorem State.goto_ready (l : SeqPc) : (s.goto l).ready = s.ready := rfl
@[simp] theorem State.goto_statusRaw (l : SeqPc) : (s.goto l).statusRaw = s.statusRaw := rfl
@[simp] theorem State.goto_data (l : SeqPc) : (s.goto l).data = s.data := rfl
@[simp] theorem State.goto_phase (l : SeqPc) : (s.goto l).phase = s.phase := rfl
@[simp] theorem State.goto_busy (l : SeqPc) : (s.goto l).busy = s.busy := rfl
@[simp] theorem State.goto_pend (l : SeqPc) : (s.goto l).pend = s.pend := rfl
@[simp] theorem State.goto_seqReady (l : SeqPc) : (s.goto l).seqReady = s.seqReady := rfl
@[simp] theorem State.goto_result (l : SeqPc) : (s.goto l).result = s.result := rfl
@[simp] theorem State.goto_rdata (l : SeqPc) : (s.goto l).rdata = s.rdata := rfl
@[simp] theorem State.goto_buf (l : SeqPc) : (s.goto l).buf = s.buf := rfl
@[simp] theorem State.goto_seqOp (l : SeqPc) : (s.goto l).seqOp = s.seqOp := rfl
@[simp] theorem State.goto_seqPc (l : SeqPc) : (s.goto l).seqPc = l := rfl
@[simp] theorem State.goto_seqIssued (l : SeqPc) : (s.goto l).seqIssued = s.seqIssued := rfl
@[simp] theorem State.goto_seqAddr (l : SeqPc) : (s.goto l).seqAddr = s.seqAddr := rfl
@[simp] theorem State.goto_seqData (l : SeqPc) : (s.goto l).seqData = s.seqData := rfl
@[simp] theorem State.goto_seqBase (l : SeqPc) : (s.goto l).seqBase = s.seqBase := rfl
@[simp] theorem State.goto_seqN (l : SeqPc) : (s.goto l).seqN = s.seqN := rfl
@[simp] theorem State.goto_seqI (l : SeqPc) : (s.goto l).seqI = s.seqI := rfl
@[simp] theorem State.goto_seqR (l : SeqPc) : (s.goto l).seqR = s.seqR := rfl
@[simp] theorem State.goto_seqRd (l : SeqPc) : (s.goto l).seqRd = s.seqRd := rfl
@[simp] theorem State.goto_trace (l : SeqPc) : (s.goto l).trace = s.trace := rfl
@[simp] theorem State.goto_faulted (l : SeqPc) : (s.goto l).faulted = s.faulted := rfl
@[simp] theorem State.goto_dev (l : SeqPc) : (s.goto l).dev = s.dev := rfl
@[simp] theorem State.goto_host (l : SeqPc) : (s.goto l).host = s.host := rfl
@[simp] theorem State.goto_hostReads (l : SeqPc) : (s.goto l).hostReads = s.hostReads := rfl
@[simp] theorem State.goto_turns (l : SeqPc) : (s.goto l).turns = s.turns := rfl
@[simp] theorem State.goto_answers (l : SeqPc) : (s.goto l).answers = s.answers := rfl
@[simp] theorem State.goto_drawn (l : SeqPc) : (s.goto l).drawn = s.drawn := rfl

/-! ### endOp (R96) -/

@[simp] theorem State.endOp_cfg : s.endOp.cfg = s.cfg := rfl
@[simp] theorem State.endOp_en : s.endOp.en = s.en := rfl
@[simp] theorem State.endOp_div : s.endOp.div = s.div := rfl
@[simp] theorem State.endOp_ownaddr : s.endOp.ownaddr = s.ownaddr := rfl
@[simp] theorem State.endOp_ready : s.endOp.ready = s.ready := rfl
@[simp] theorem State.endOp_statusRaw : s.endOp.statusRaw = s.statusRaw := rfl
@[simp] theorem State.endOp_data : s.endOp.data = s.data := rfl
@[simp] theorem State.endOp_phase : s.endOp.phase = s.phase := rfl
@[simp] theorem State.endOp_busy : s.endOp.busy = s.busy := rfl
@[simp] theorem State.endOp_pend : s.endOp.pend = s.pend := rfl
@[simp] theorem State.endOp_seqReady : s.endOp.seqReady = true := rfl
@[simp] theorem State.endOp_result : s.endOp.result = s.result := rfl
@[simp] theorem State.endOp_rdata : s.endOp.rdata = s.rdata := rfl
@[simp] theorem State.endOp_buf : s.endOp.buf = s.buf := rfl
@[simp] theorem State.endOp_seqOp : s.endOp.seqOp = none := rfl
@[simp] theorem State.endOp_seqPc : s.endOp.seqPc = .idle := rfl
@[simp] theorem State.endOp_seqIssued : s.endOp.seqIssued = s.seqIssued := rfl
@[simp] theorem State.endOp_seqAddr : s.endOp.seqAddr = s.seqAddr := rfl
@[simp] theorem State.endOp_seqData : s.endOp.seqData = s.seqData := rfl
@[simp] theorem State.endOp_seqBase : s.endOp.seqBase = s.seqBase := rfl
@[simp] theorem State.endOp_seqN : s.endOp.seqN = s.seqN := rfl
@[simp] theorem State.endOp_seqI : s.endOp.seqI = s.seqI := rfl
@[simp] theorem State.endOp_seqR : s.endOp.seqR = s.seqR := rfl
@[simp] theorem State.endOp_seqRd : s.endOp.seqRd = s.seqRd := rfl
@[simp] theorem State.endOp_trace : s.endOp.trace = s.trace := rfl
@[simp] theorem State.endOp_faulted : s.endOp.faulted = s.faulted := rfl
@[simp] theorem State.endOp_dev : s.endOp.dev = s.dev := rfl
@[simp] theorem State.endOp_host : s.endOp.host = s.host := rfl
@[simp] theorem State.endOp_hostReads : s.endOp.hostReads = s.hostReads := rfl
@[simp] theorem State.endOp_turns : s.endOp.turns = s.turns := rfl
@[simp] theorem State.endOp_answers : s.endOp.answers = s.answers := rfl
@[simp] theorem State.endOp_drawn : s.endOp.drawn = s.drawn := rfl

/-! ### useTurn (log entry 1): every field but turns and drawn -/

@[simp] theorem State.useTurn_cfg : s.useTurn.cfg = s.cfg := by unfold State.useTurn; split <;> rfl
@[simp] theorem State.useTurn_en : s.useTurn.en = s.en := by unfold State.useTurn; split <;> rfl
@[simp] theorem State.useTurn_div : s.useTurn.div = s.div := by unfold State.useTurn; split <;> rfl
@[simp] theorem State.useTurn_ownaddr : s.useTurn.ownaddr = s.ownaddr := by unfold State.useTurn; split <;> rfl
@[simp] theorem State.useTurn_ready : s.useTurn.ready = s.ready := by unfold State.useTurn; split <;> rfl
@[simp] theorem State.useTurn_statusRaw : s.useTurn.statusRaw = s.statusRaw := by unfold State.useTurn; split <;> rfl
@[simp] theorem State.useTurn_data : s.useTurn.data = s.data := by unfold State.useTurn; split <;> rfl
@[simp] theorem State.useTurn_phase : s.useTurn.phase = s.phase := by unfold State.useTurn; split <;> rfl
@[simp] theorem State.useTurn_busy : s.useTurn.busy = s.busy := by unfold State.useTurn; split <;> rfl
@[simp] theorem State.useTurn_pend : s.useTurn.pend = s.pend := by unfold State.useTurn; split <;> rfl
@[simp] theorem State.useTurn_seqReady : s.useTurn.seqReady = s.seqReady := by unfold State.useTurn; split <;> rfl
@[simp] theorem State.useTurn_result : s.useTurn.result = s.result := by unfold State.useTurn; split <;> rfl
@[simp] theorem State.useTurn_rdata : s.useTurn.rdata = s.rdata := by unfold State.useTurn; split <;> rfl
@[simp] theorem State.useTurn_buf : s.useTurn.buf = s.buf := by unfold State.useTurn; split <;> rfl
@[simp] theorem State.useTurn_seqOp : s.useTurn.seqOp = s.seqOp := by unfold State.useTurn; split <;> rfl
@[simp] theorem State.useTurn_seqPc : s.useTurn.seqPc = s.seqPc := by unfold State.useTurn; split <;> rfl
@[simp] theorem State.useTurn_seqIssued : s.useTurn.seqIssued = s.seqIssued := by unfold State.useTurn; split <;> rfl
@[simp] theorem State.useTurn_seqAddr : s.useTurn.seqAddr = s.seqAddr := by unfold State.useTurn; split <;> rfl
@[simp] theorem State.useTurn_seqData : s.useTurn.seqData = s.seqData := by unfold State.useTurn; split <;> rfl
@[simp] theorem State.useTurn_seqBase : s.useTurn.seqBase = s.seqBase := by unfold State.useTurn; split <;> rfl
@[simp] theorem State.useTurn_seqN : s.useTurn.seqN = s.seqN := by unfold State.useTurn; split <;> rfl
@[simp] theorem State.useTurn_seqI : s.useTurn.seqI = s.seqI := by unfold State.useTurn; split <;> rfl
@[simp] theorem State.useTurn_seqR : s.useTurn.seqR = s.seqR := by unfold State.useTurn; split <;> rfl
@[simp] theorem State.useTurn_seqRd : s.useTurn.seqRd = s.seqRd := by unfold State.useTurn; split <;> rfl
@[simp] theorem State.useTurn_trace : s.useTurn.trace = s.trace := by unfold State.useTurn; split <;> rfl
@[simp] theorem State.useTurn_faulted : s.useTurn.faulted = s.faulted := by unfold State.useTurn; split <;> rfl
@[simp] theorem State.useTurn_dev : s.useTurn.dev = s.dev := by unfold State.useTurn; split <;> rfl
@[simp] theorem State.useTurn_host : s.useTurn.host = s.host := by unfold State.useTurn; split <;> rfl
@[simp] theorem State.useTurn_hostReads : s.useTurn.hostReads = s.hostReads := by unfold State.useTurn; split <;> rfl
@[simp] theorem State.useTurn_answers : s.useTurn.answers = s.answers := by unfold State.useTurn; split <;> rfl

/-! ### useAnswer (log entry 2): every field but answers and drawn -/

@[simp] theorem State.useAnswer_cfg : s.useAnswer.cfg = s.cfg := by unfold State.useAnswer; split <;> rfl
@[simp] theorem State.useAnswer_en : s.useAnswer.en = s.en := by unfold State.useAnswer; split <;> rfl
@[simp] theorem State.useAnswer_div : s.useAnswer.div = s.div := by unfold State.useAnswer; split <;> rfl
@[simp] theorem State.useAnswer_ownaddr : s.useAnswer.ownaddr = s.ownaddr := by unfold State.useAnswer; split <;> rfl
@[simp] theorem State.useAnswer_ready : s.useAnswer.ready = s.ready := by unfold State.useAnswer; split <;> rfl
@[simp] theorem State.useAnswer_statusRaw : s.useAnswer.statusRaw = s.statusRaw := by unfold State.useAnswer; split <;> rfl
@[simp] theorem State.useAnswer_data : s.useAnswer.data = s.data := by unfold State.useAnswer; split <;> rfl
@[simp] theorem State.useAnswer_phase : s.useAnswer.phase = s.phase := by unfold State.useAnswer; split <;> rfl
@[simp] theorem State.useAnswer_busy : s.useAnswer.busy = s.busy := by unfold State.useAnswer; split <;> rfl
@[simp] theorem State.useAnswer_pend : s.useAnswer.pend = s.pend := by unfold State.useAnswer; split <;> rfl
@[simp] theorem State.useAnswer_seqReady : s.useAnswer.seqReady = s.seqReady := by unfold State.useAnswer; split <;> rfl
@[simp] theorem State.useAnswer_result : s.useAnswer.result = s.result := by unfold State.useAnswer; split <;> rfl
@[simp] theorem State.useAnswer_rdata : s.useAnswer.rdata = s.rdata := by unfold State.useAnswer; split <;> rfl
@[simp] theorem State.useAnswer_buf : s.useAnswer.buf = s.buf := by unfold State.useAnswer; split <;> rfl
@[simp] theorem State.useAnswer_seqOp : s.useAnswer.seqOp = s.seqOp := by unfold State.useAnswer; split <;> rfl
@[simp] theorem State.useAnswer_seqPc : s.useAnswer.seqPc = s.seqPc := by unfold State.useAnswer; split <;> rfl
@[simp] theorem State.useAnswer_seqIssued : s.useAnswer.seqIssued = s.seqIssued := by unfold State.useAnswer; split <;> rfl
@[simp] theorem State.useAnswer_seqAddr : s.useAnswer.seqAddr = s.seqAddr := by unfold State.useAnswer; split <;> rfl
@[simp] theorem State.useAnswer_seqData : s.useAnswer.seqData = s.seqData := by unfold State.useAnswer; split <;> rfl
@[simp] theorem State.useAnswer_seqBase : s.useAnswer.seqBase = s.seqBase := by unfold State.useAnswer; split <;> rfl
@[simp] theorem State.useAnswer_seqN : s.useAnswer.seqN = s.seqN := by unfold State.useAnswer; split <;> rfl
@[simp] theorem State.useAnswer_seqI : s.useAnswer.seqI = s.seqI := by unfold State.useAnswer; split <;> rfl
@[simp] theorem State.useAnswer_seqR : s.useAnswer.seqR = s.seqR := by unfold State.useAnswer; split <;> rfl
@[simp] theorem State.useAnswer_seqRd : s.useAnswer.seqRd = s.seqRd := by unfold State.useAnswer; split <;> rfl
@[simp] theorem State.useAnswer_trace : s.useAnswer.trace = s.trace := by unfold State.useAnswer; split <;> rfl
@[simp] theorem State.useAnswer_faulted : s.useAnswer.faulted = s.faulted := by unfold State.useAnswer; split <;> rfl
@[simp] theorem State.useAnswer_dev : s.useAnswer.dev = s.dev := by unfold State.useAnswer; split <;> rfl
@[simp] theorem State.useAnswer_host : s.useAnswer.host = s.host := by unfold State.useAnswer; split <;> rfl
@[simp] theorem State.useAnswer_hostReads : s.useAnswer.hostReads = s.hostReads := by unfold State.useAnswer; split <;> rfl
@[simp] theorem State.useAnswer_turns : s.useAnswer.turns = s.turns := by unfold State.useAnswer; split <;> rfl

/-! ### remoteAbandon (R52): every field but dev -/

@[simp] theorem State.remoteAbandon_cfg : s.remoteAbandon.cfg = s.cfg := by unfold State.remoteAbandon; split <;> rfl
@[simp] theorem State.remoteAbandon_en : s.remoteAbandon.en = s.en := by unfold State.remoteAbandon; split <;> rfl
@[simp] theorem State.remoteAbandon_div : s.remoteAbandon.div = s.div := by unfold State.remoteAbandon; split <;> rfl
@[simp] theorem State.remoteAbandon_ownaddr : s.remoteAbandon.ownaddr = s.ownaddr := by unfold State.remoteAbandon; split <;> rfl
@[simp] theorem State.remoteAbandon_ready : s.remoteAbandon.ready = s.ready := by unfold State.remoteAbandon; split <;> rfl
@[simp] theorem State.remoteAbandon_statusRaw : s.remoteAbandon.statusRaw = s.statusRaw := by unfold State.remoteAbandon; split <;> rfl
@[simp] theorem State.remoteAbandon_data : s.remoteAbandon.data = s.data := by unfold State.remoteAbandon; split <;> rfl
@[simp] theorem State.remoteAbandon_phase : s.remoteAbandon.phase = s.phase := by unfold State.remoteAbandon; split <;> rfl
@[simp] theorem State.remoteAbandon_busy : s.remoteAbandon.busy = s.busy := by unfold State.remoteAbandon; split <;> rfl
@[simp] theorem State.remoteAbandon_pend : s.remoteAbandon.pend = s.pend := by unfold State.remoteAbandon; split <;> rfl
@[simp] theorem State.remoteAbandon_seqReady : s.remoteAbandon.seqReady = s.seqReady := by unfold State.remoteAbandon; split <;> rfl
@[simp] theorem State.remoteAbandon_result : s.remoteAbandon.result = s.result := by unfold State.remoteAbandon; split <;> rfl
@[simp] theorem State.remoteAbandon_rdata : s.remoteAbandon.rdata = s.rdata := by unfold State.remoteAbandon; split <;> rfl
@[simp] theorem State.remoteAbandon_buf : s.remoteAbandon.buf = s.buf := by unfold State.remoteAbandon; split <;> rfl
@[simp] theorem State.remoteAbandon_seqOp : s.remoteAbandon.seqOp = s.seqOp := by unfold State.remoteAbandon; split <;> rfl
@[simp] theorem State.remoteAbandon_seqPc : s.remoteAbandon.seqPc = s.seqPc := by unfold State.remoteAbandon; split <;> rfl
@[simp] theorem State.remoteAbandon_seqIssued : s.remoteAbandon.seqIssued = s.seqIssued := by unfold State.remoteAbandon; split <;> rfl
@[simp] theorem State.remoteAbandon_seqAddr : s.remoteAbandon.seqAddr = s.seqAddr := by unfold State.remoteAbandon; split <;> rfl
@[simp] theorem State.remoteAbandon_seqData : s.remoteAbandon.seqData = s.seqData := by unfold State.remoteAbandon; split <;> rfl
@[simp] theorem State.remoteAbandon_seqBase : s.remoteAbandon.seqBase = s.seqBase := by unfold State.remoteAbandon; split <;> rfl
@[simp] theorem State.remoteAbandon_seqN : s.remoteAbandon.seqN = s.seqN := by unfold State.remoteAbandon; split <;> rfl
@[simp] theorem State.remoteAbandon_seqI : s.remoteAbandon.seqI = s.seqI := by unfold State.remoteAbandon; split <;> rfl
@[simp] theorem State.remoteAbandon_seqR : s.remoteAbandon.seqR = s.seqR := by unfold State.remoteAbandon; split <;> rfl
@[simp] theorem State.remoteAbandon_seqRd : s.remoteAbandon.seqRd = s.seqRd := by unfold State.remoteAbandon; split <;> rfl
@[simp] theorem State.remoteAbandon_trace : s.remoteAbandon.trace = s.trace := by unfold State.remoteAbandon; split <;> rfl
@[simp] theorem State.remoteAbandon_faulted : s.remoteAbandon.faulted = s.faulted := by unfold State.remoteAbandon; split <;> rfl
@[simp] theorem State.remoteAbandon_host : s.remoteAbandon.host = s.host := by unfold State.remoteAbandon; split <;> rfl
@[simp] theorem State.remoteAbandon_hostReads : s.remoteAbandon.hostReads = s.hostReads := by unfold State.remoteAbandon; split <;> rfl
@[simp] theorem State.remoteAbandon_turns : s.remoteAbandon.turns = s.turns := by unfold State.remoteAbandon; split <;> rfl
@[simp] theorem State.remoteAbandon_answers : s.remoteAbandon.answers = s.answers := by unfold State.remoteAbandon; split <;> rfl
@[simp] theorem State.remoteAbandon_drawn : s.remoteAbandon.drawn = s.drawn := by unfold State.remoteAbandon; split <;> rfl

end Sys2Proof.Machine
end

