-- ==== Sys2Proof/Laws/Ops.lean ====
section
/-! SUPPORT. What each shared operation can do, said once: the frame of a step, the checks, the issue, the completion, the
device, and the micro-steps. -/

namespace Sys2Proof.Machine

/-! ### The frame of a step -/

theorem stopped_of_live {s : State} (h : s.live) : stopped s = none := by
  unfold stopped
  rw [h.1]
  simp [h.2]

theorem live_of_stopped {s : State} (h : stopped s = none) : s.live := by
  unfold stopped at h
  split at h
  · cases h
  · cases h
  · split at h
    · exact ⟨by assumption, by assumption⟩
    · cases h

/-- A live machine takes f's effect, or raises f's fault on the state as it was. -/
theorem act_of_live {f : State → Except Stop State} {s : State} (h : s.live) : act f s = .next (settle s (f s)) := by
  unfold act
  rw [stopped_of_live h]

theorem act_ok {f : State → Except Stop State} {s t : State} (h : s.live) (hf : f s = .ok t) : act f s = .next t := by
  rw [act_of_live h, hf]
  rfl

theorem act_error {f : State → Except Stop State} {s : State} {e : Stop} (h : s.live) (hf : f s = .error e) :
    act f s = .next (s.raise e) := by
  rw [act_of_live h, hf]
  rfl

/-- Everything a step through `act` can do when it answers a next state. -/
theorem act_next {f : State → Except Stop State} {s t : State} (h : act f s = .next t) :
    s.faulted = none ∧ ((s.live ∧ f s = .ok t) ∨ ∃ e, t = s.raise e) := by
  unfold act at h
  split at h
  · rename_i o ho
    subst h
    unfold stopped at ho
    split at ho
    · cases ho
    · cases ho
    · split at ho
      · cases ho
      · exact ⟨by assumption, .inr ⟨_, by injection ho with ho; injection ho with ho; exact ho.symm⟩⟩
  · rename_i ho
    have hl := live_of_stopped ho
    injection h with h
    refine ⟨hl.1, ?_⟩
    cases hf : f s with
    | ok u => rw [hf] at h; exact .inl ⟨hl, by rw [← h]; rfl⟩
    | error e => rw [hf] at h; exact .inr ⟨e, h.symm⟩

/-- A stopped machine answers its reason, whatever the step. -/
theorem act_faulted {f : State → Except Stop State} {s : State} {r : Fault} (h : s.faulted = some (.fault r)) :
    act f s = .fault r := by
  unfold act stopped
  rw [h]

theorem act_refused {f : State → Except Stop State} {s : State} {r : Refusal} (h : s.faulted = some (.refusal r)) :
    act f s = .refused r := by
  unfold act stopped
  rw [h]

theorem needed_ok {α β : Type} {c : Cause} {v : Option α} {k : α → Except Stop β} {t : β} (h : needed c v k = .ok t) :
    ∃ x, v = some x ∧ k x = .ok t := by
  cases v with
  | none => cases h
  | some x => exact ⟨x, rfl, h⟩

@[simp] theorem needed_some {α β : Type} (c : Cause) (x : α) (k : α → Except Stop β) : needed c (some x) k = k x := rfl

@[simp] theorem needed_none {α β : Type} (c : Cause) (k : α → Except Stop β) :
    needed c none k = .error (.fault (.readUnwritten c)) := rfl

/-! ### Inputs -/

theorem nextAgent_cons {s : State} {g : Agent} {gs : List Agent} (h : s.turns = g :: gs) : s.nextAgent = g := by
  unfold State.nextAgent
  rw [h]

theorem useTurn_cons {s : State} {g : Agent} {gs : List Agent} (h : s.turns = g :: gs) :
    s.useTurn = { s with turns := gs } := by
  unfold State.useTurn
  rw [h]

theorem nextAnswer_cons {s : State} {a : BusAnswer} {rest : List BusAnswer} (h : s.answers = a :: rest) :
    s.nextAnswer = a := by
  unfold State.nextAnswer
  rw [h]

theorem useAnswer_cons {s : State} {a : BusAnswer} {rest : List BusAnswer} (h : s.answers = a :: rest) :
    s.useAnswer = { s with answers := rest } := by
  unfold State.useAnswer
  rw [h]

theorem useTurn_live {s : State} (h : s.live) : s.useTurn.live := by
  simpa [State.live] using h

/-! ### Issue (R80) -/

/-- An issue that succeeds passed every check of R80. -/
theorem issue_ok {c : EngineCmd} {s t : State} (h : issue c s = .ok t) :
    issueFault c s = none ∧ issueEffect c s = .ok t := by
  unfold issue at h
  cases hf : issueFault c s with
  | some f => rw [hf] at h; cases h
  | none => rw [hf] at h; exact ⟨rfl, h⟩

/-- R80 for every command but INIT: enabled, not busy, legal in PHASE. -/
theorem issueFault_none {c : EngineCmd} {s : State} (hc : ∀ d o, c ≠ .init d o) :
    issueFault c s = none ↔ s.en = true ∧ s.busy = false ∧ legalIn c s.phase = true := by
  cases c with
  | init d o => exact absurd rfl (hc d o)
  | _ => cases he : s.en <;> cases hb : s.busy <;> simp [issueFault, he, hb]

theorem issueFault_init_none {d o : Byte} {s : State} : issueFault (.init d o) s = none ↔ s.en = false := by
  cases he : s.en <;> simp [issueFault, he]

theorem hostMayWrite_ready {c : Cause} {f : State → Except Stop State} {s : State} (h : s.seqReady = true) :
    hostMayWrite c f s = f s := by
  simp [hostMayWrite, h]

theorem hostMayWrite_busy {c : Cause} {f : State → Except Stop State} {s : State} (h : s.seqReady = false) :
    hostMayWrite c f s = .error (.fault (.hostWhileSeqBusy c)) := by
  simp [hostMayWrite, h]

theorem hostMayWrite_ok {c : Cause} {f : State → Except Stop State} {s t : State} (h : hostMayWrite c f s = .ok t) :
    s.seqReady = true ∧ f s = .ok t := by
  cases hr : s.seqReady with
  | true => rw [hostMayWrite_ready hr] at h; exact ⟨rfl, h⟩
  | false => rw [hostMayWrite_busy hr] at h; cases h

theorem seqIssue_ok {c : SeqCmd} {s t : State} (h : seqIssue c s = .ok t) :
    s.en = true ∧ s.busy = false ∧ t = (s.beginOp c).loadOp c := by
  unfold seqIssue seqFault at h
  cases he : s.en <;> cases hb : s.busy <;> simp [he, hb] at h
  exact ⟨rfl, rfl, h.symm⟩

/-! ### The device: each operation changes nothing of the state but dev -/

theorem remoteAbandon_eq (s : State) : ∃ d, s.remoteAbandon = { s with dev := d } ∧ d.mem = s.dev.mem ∧ d.ptr = s.dev.ptr ∧
    (s.cfg.mode = .ref → d = s.dev.abandon) ∧ (s.cfg.mode = .oracle → d = s.dev) := by
  unfold State.remoteAbandon
  cases hm : s.cfg.mode with
  | oracle => exact ⟨s.dev, rfl, rfl, rfl, by simp, by simp⟩
  | ref => exact ⟨s.dev.abandon, rfl, rfl, rfl, by simp, by simp⟩

theorem remoteStop_ok {c : Cause} {s t : State} (h : s.remoteStop c = .ok t) : ∃ d, t = { s with dev := d } ∧
    (s.cfg.mode = .ref → s.dev.stopCondition c = .ok d) ∧ (s.cfg.mode = .oracle → d = s.dev) := by
  unfold State.remoteStop at h
  cases hm : s.cfg.mode with
  | oracle =>
    rw [hm] at h
    injection h with h
    subst h
    exact ⟨s.dev, rfl, by simp, by simp⟩
  | ref =>
    rw [hm] at h
    cases hd : s.dev.stopCondition c with
    | error e => simp [hd] at h
    | ok d =>
      simp only [hd] at h
      injection h with h
      exact ⟨d, h.symm, by simp, by simp⟩

theorem remoteAnswer_ok {c : Cause} {b : Byte} {k r : AckBit} {s t : State} (h : s.remoteAnswer c b k = .ok (r, t)) :
    ∃ d, t = { s with dev := d } ∧ (s.cfg.mode = .oracle → r = k ∧ d = s.dev) ∧
      (s.cfg.mode = .ref → (if s.phase = .addr then s.dev.control c b k else s.dev.writeByte c b k) = .ok (r, d)) := by
  unfold State.remoteAnswer at h
  cases hm : s.cfg.mode with
  | oracle =>
    rw [hm] at h
    injection h with h
    injection h with h1 h2
    subst h1 h2
    exact ⟨s.dev, rfl, by simp, by simp⟩
  | ref =>
    rw [hm] at h
    cases hd : (if s.phase = .addr then s.dev.control c b k else s.dev.writeByte c b k) with
    | error e => simp [hd] at h
    | ok x =>
      obtain ⟨r', d⟩ := x
      simp only [hd] at h
      injection h with h
      injection h with h1 h2
      subst h1
      exact ⟨d, h2.symm, by simp, by simp⟩

theorem remoteByte_ok {c : Cause} {x v : Byte} {s t : State} (h : s.remoteByte c x = .ok (v, t)) :
    ∃ d, t = { s with dev := d } ∧ (s.cfg.mode = .oracle → v = x ∧ d = s.dev) ∧
      (s.cfg.mode = .ref → s.dev.send c = .ok (v, d)) := by
  unfold State.remoteByte at h
  cases hm : s.cfg.mode with
  | oracle =>
    rw [hm] at h
    injection h with h
    injection h with h1 h2
    subst h1 h2
    exact ⟨s.dev, rfl, by simp, by simp⟩
  | ref =>
    rw [hm] at h
    cases hd : s.dev.send c with
    | error e => simp [hd] at h
    | ok y =>
      obtain ⟨v', d⟩ := y
      simp only [hd] at h
      injection h with h
      injection h with h1 h2
      subst h1
      exact ⟨d, h2.symm, by simp, by simp⟩

/-- No answer of the device changes MEM. -/
theorem control_mem {c : Cause} {b : Byte} {k r : AckBit} {d e : Device} (h : d.control c b k = .ok (r, e)) :
    e.mem = d.mem := by
  unfold Device.control unmodelled at h
  repeat' split at h
  all_goals first | (injection h with h; injection h with h1 h2; subst h2; rfl) | cases h

theorem writeByte_mem {c : Cause} {b : Byte} {k r : AckBit} {d e : Device} (h : d.writeByte c b k = .ok (r, e)) :
    e.mem = d.mem := by
  unfold Device.writeByte unmodelled at h
  cases hb : d.blk <;> rw [hb] at h <;> repeat' split at h
  all_goals simp at h
  all_goals (obtain ⟨h1, h2⟩ := h; subst h2; rfl)

theorem send_ok {c : Cause} {v : Byte} {d e : Device} (h : d.send c = .ok (v, e)) :
    ∃ ptr, d.wst = .rd ∧ d.ptr = some ptr ∧ v = Memory.read ptr d.mem ∧ e = { d with ptr := some (ptr + 1#11) } := by
  unfold Device.send unmodelled at h
  split at h
  · obtain ⟨ptr, hp, h⟩ := needed_ok h
    injection h with h
    injection h with h1 h2
    exact ⟨ptr, by assumption, hp, h1.symm, h2.symm⟩
  all_goals cases h

/-- R55: only a full write is stored, at the pointer. -/
theorem stopCondition_ok {c : Cause} {d e : Device} (h : d.stopCondition c = .ok e) :
    e.wst = .idle ∧ ((d.wst ≠ .wFull ∧ e = { d with wst := .idle }) ∨
      ∃ ptr v, d.wst = .wFull ∧ d.ptr = some ptr ∧ d.wpend = some v ∧
        e = { d with mem := Memory.write ptr v d.mem, ptr := none, wpend := none, wst := .idle }) := by
  unfold Device.stopCondition at h
  split at h
  · obtain ⟨ptr, hp, h⟩ := needed_ok h
    obtain ⟨v, hv, h⟩ := needed_ok h
    injection h with h
    subst h
    exact ⟨rfl, .inr ⟨ptr, v, by assumption, hp, hv, rfl⟩⟩
  all_goals
    injection h with h
    subst h
    exact ⟨rfl, .inl ⟨by simp [*], rfl⟩⟩

/-! ### Completion (R82) -/

/-- A completion that succeeds: the status name and the state its rule gives, then the tail of R82. -/
theorem complete_ok {c : Pending} {s t : State} (h : complete c s = .ok t) :
    ∃ n u, completion c s.nextAnswer s.useAnswer = .ok (n, u) ∧ t = u.finishPhase n s.nextAnswer.low := by
  unfold complete at h
  cases hc : completion c s.nextAnswer s.useAnswer with
  | error e => rw [hc] at h; cases h
  | ok x =>
    obtain ⟨n, u⟩ := x
    rw [hc] at h
    injection h with h
    exact ⟨n, u, rfl, h.symm⟩

/-- A completion's rule changes DATA, PHASE, TRACE and the device, nothing else. -/
theorem completion_ok {c : Pending} {a : BusAnswer} {s u : State} {n : StatusName} (h : completion c a s = .ok (n, u)) :
    ∃ d x ph tr, u = { s with dev := d, data := x, phase := ph, trace := tr } := by
  have abandoned : ∀ v : State, ∃ d, v.remoteAbandon = { v with dev := d } := fun v =>
    (remoteAbandon_eq v).imp fun d hd => hd.1
  unfold completion at h
  split at h
  · injection h with h
    injection h with h1 h2
    subst h2
    unfold State.busError
    obtain ⟨d, hd⟩ := abandoned { s.emit .berr with phase := .idle }
    rw [hd]
    exact ⟨_, _, _, _, rfl⟩
  · cases c with
    | start =>
      injection h with h
      unfold completeStart at h
      split at h
      · injection h with h1 h2
        subst h2
        obtain ⟨d, hd⟩ := abandoned { s.emit .s with phase := .addr }
        rw [hd]
        exact ⟨_, _, _, _, rfl⟩
      · injection h with h1 h2
        subst h2
        obtain ⟨d, hd⟩ := abandoned { s.emit .sr with phase := .addr }
        rw [hd]
        exact ⟨_, _, _, _, rfl⟩
    | write b =>
      simp only [completeWrite] at h
      split at h
      · cases h
      · rename_i hk
        obtain ⟨d, rfl, _⟩ := remoteAnswer_ok hk
        injection h with h
        injection h with h1 h2
        subst h2
        exact ⟨_, _, _, _, rfl⟩
    | readAck | readNack =>
      simp only [completeRead] at h
      split at h
      · cases h
      · rename_i hk
        obtain ⟨d, rfl, _⟩ := remoteByte_ok hk
        injection h with h
        injection h with h1 h2
        subst h2
        exact ⟨_, _, _, _, rfl⟩

/-- R82: a code with any low bits masks to the code. -/
theorem maskStatus_code {sc : StatusTable} (h : sc.legal = true) (n : StatusName) (low : BitVec 3) :
    maskStatus (sc.code n ||| low.setWidth 8) = sc.code n := by
  have hz : sc.code n &&& 0x07#8 = 0#8 := by
    unfold StatusTable.legal at h
    rw [Bool.and_eq_true, List.all_eq_true] at h
    simpa using h.1 n (by cases n <;> simp [StatusName.all])
  unfold maskStatus
  generalize sc.code n = x at hz
  revert hz
  revert x low
  decide

/-- R74: the codes are pairwise distinct. -/
theorem code_injective {sc : StatusTable} (h : sc.legal = true) {m n : StatusName} (e : sc.code m = sc.code n) : m = n := by
  have hd : (StatusName.all.map sc.code).Nodup := by
    unfold StatusTable.legal at h
    rw [Bool.and_eq_true, decide_eq_true_eq] at h
    exact h.2
  exact List.inj_on_of_nodup_map hd (by cases m <;> simp [StatusName.all]) (by cases n <;> simp [StatusName.all]) e

/-! ### Micro-steps (R95) -/

/-- Everything `Prim(c) expect n` can do: issue, hold, pass, or go to ERR. -/
theorem prim_ok {c : EngineCmd} {n : StatusName} {pass : State → State} {s t : State} (h : prim c n pass s = .ok t) :
    (s.seqIssued = false ∧ ∃ u, issue c s = .ok u ∧ t = { u with seqIssued := true }) ∨
    (s.seqIssued = true ∧ s.ready = false ∧ t = s) ∨
    (s.seqIssued = true ∧ s.ready = true ∧ ∃ raw, s.statusRaw = some raw ∧
      ((maskStatus raw = s.cfg.sc.code n ∧ t = pass { s with seqIssued := false }) ∨
       (maskStatus raw ≠ s.cfg.sc.code n ∧ t = { s with seqIssued := false }.goto .err))) := by
  unfold prim at h
  split at h
  · rename_i hi
    split at h
    · rename_i hr
      obtain ⟨raw, hraw, h⟩ := needed_ok h
      refine .inr (.inr ⟨hi, hr, raw, hraw, ?_⟩)
      split at h
      · injection h with h
        exact .inl ⟨by assumption, h.symm⟩
      · injection h with h
        exact .inr ⟨by assumption, h.symm⟩
    · rename_i hr
      injection h with h
      exact .inr (.inl ⟨hi, by simpa using hr, h.symm⟩)
  · rename_i hi
    cases hs : issue c s with
    | error e => rw [hs] at h; cases h
    | ok u =>
      rw [hs] at h
      injection h with h
      exact .inl ⟨by simpa using hi, u, rfl, h.symm⟩

end Sys2Proof.Machine
end

