-- ==== Sys2Proof/Laws/PerInstr.lean ====
section
/-! SUPPORT. Statements made for every instruction, one lemma per constructor. Family TableRow: the encoder writes the fixed
bits that spec/opcode_table.json gives the instruction's row (R67, R69), whatever the operands. -/

namespace Sys2Proof.Laws.TableRow

/-- The bits a row of the table numbers: a command word, or the 10-bit pattern of a port transaction (R69). -/
def bits : Transfer → Word
  | .command w => w
  | .portRead p => p.setWidth 32
  | .portWrite p _ => 0x200#32 ||| p.setWidth 32

/-- The row of each instruction, (match, mask), as spec/opcode_table.json gives it. -/
def row : Instr → Word × Word
  | .init _ _ => (0x01000000#32, 0xFFFF0000#32)
  | .start => (0x02000000#32, 0xFFFFFFFF#32)
  | .stop => (0x03000000#32, 0xFFFFFFFF#32)
  | .write _ => (0x04000000#32, 0xFFFFFF00#32)
  | .readAck => (0x05000000#32, 0xFFFFFFFF#32)
  | .readNack => (0x06000000#32, 0xFFFFFFFF#32)
  | .eeWriteByte _ _ => (0x10000000#32, 0xFF000000#32)
  | .eeReadByte _ => (0x11000000#32, 0xFF0000FF#32)
  | .eeWriteArray _ _ => (0x12000000#32, 0xFF000000#32)
  | .eeReadArray _ _ => (0x13000000#32, 0xFF000000#32)
  | .getStatus => (0x002#32, 0x3FF#32)
  | .prCmd => (0x000#32, 0x3FF#32)
  | .prStatusRaw => (0x001#32, 0x3FF#32)
  | .prReady => (0x003#32, 0x3FF#32)
  | .prData => (0x004#32, 0x3FF#32)
  | .prDiv => (0x005#32, 0x3FF#32)
  | .prOwnaddr => (0x006#32, 0x3FF#32)
  | .prEn => (0x007#32, 0x3FF#32)
  | .prSeqReady => (0x008#32, 0x3FF#32)
  | .prResult => (0x009#32, 0x3FF#32)
  | .prRdata => (0x00A#32, 0x3FF#32)
  | .prBuf _ => (0x100#32, 0x300#32)
  | .pwCmd _ => (0x200#32, 0x3FF#32)
  | .pwBuf _ _ => (0x300#32, 0x300#32)

/-- The encoding of i has the fixed bits of i's row. -/
def Statement (i : Instr) : Prop := rowMatches (bits (encode i)) (row i) = true

/-- Bits that agree with match under mask, bit by bit. -/
theorem rowMatches_of_bits {w m k : Word} (h : ∀ i, i < 32 → (w.getLsbD i && k.getLsbD i) = m.getLsbD i) :
    rowMatches w (m, k) = true := by
  simp only [rowMatches, beq_iff_eq]
  exact BitVec.eq_of_getLsbD_eq fun i hi => by rw [BitVec.getLsbD_and]; exact h i hi

theorem getLsbD_word (op d : Byte) (a : LAddr) (j : Nat) : (op ++ a ++ d : Word).getLsbD j =
    if j < 8 then d.getLsbD j else if j - 8 < 16 then a.getLsbD (j - 8) else op.getLsbD (j - 8 - 16) := by
  have h : (op ++ a ++ d : BitVec (8 + 16 + 8)).getLsbD j =
      if j < 8 then d.getLsbD j else if j - 8 < 16 then a.getLsbD (j - 8) else op.getLsbD (j - 8 - 16) := by
    rw [BitVec.getLsbD_append, BitVec.getLsbD_append]
  exact h

theorem getLsbD_init (op z div own : Byte) (j : Nat) : (op ++ z ++ div ++ own : Word).getLsbD j =
    if j < 8 then own.getLsbD j
    else if j - 8 < 8 then div.getLsbD (j - 8)
    else if j - 8 - 8 < 8 then z.getLsbD (j - 8 - 8) else op.getLsbD (j - 8 - 8 - 8) := by
  have h : (op ++ z ++ div ++ own : BitVec (8 + 8 + 8 + 8)).getLsbD j =
      if j < 8 then own.getLsbD j
      else if j - 8 < 8 then div.getLsbD (j - 8)
      else if j - 8 - 8 < 8 then z.getLsbD (j - 8 - 8) else op.getLsbD (j - 8 - 8 - 8) := by
    rw [BitVec.getLsbD_append, BitVec.getLsbD_append, BitVec.getLsbD_append]
  exact h

theorem getLsbD_bufPort (i : Byte) (j : Nat) : (bufPort i).getLsbD j = if j < 8 then i.getLsbD j else (1#1).getLsbD (j - 8) :=
  BitVec.getLsbD_append

theorem init (div own : Byte) : Statement (.init div own) := by
  apply rowMatches_of_bits
  intro i hi
  interval_cases i <;> simp only [bits, encode, encodeEngine, getLsbD_init] <;> simp

theorem start : Statement .start := by unfold Statement; decide
theorem stop : Statement .stop := by unfold Statement; decide

theorem write (b : Byte) : Statement (.write b) := by
  apply rowMatches_of_bits
  intro i hi
  interval_cases i <;> simp only [bits, encode, encodeEngine, getLsbD_word] <;> simp

theorem readAck : Statement .readAck := by unfold Statement; decide
theorem readNack : Statement .readNack := by unfold Statement; decide

theorem eeWriteByte (a : LAddr) (d : Byte) : Statement (.eeWriteByte a d) := by
  apply rowMatches_of_bits
  intro i hi
  interval_cases i <;> simp only [bits, encode, encodeSeq, getLsbD_word] <;> simp

theorem eeReadByte (a : LAddr) : Statement (.eeReadByte a) := by
  apply rowMatches_of_bits
  intro i hi
  interval_cases i <;> simp only [bits, encode, encodeSeq, getLsbD_word] <;> simp

theorem eeWriteArray (a : LAddr) (n : Byte) : Statement (.eeWriteArray a n) := by
  apply rowMatches_of_bits
  intro i hi
  interval_cases i <;> simp only [bits, encode, encodeSeq, getLsbD_word] <;> simp

theorem eeReadArray (a : LAddr) (n : Byte) : Statement (.eeReadArray a n) := by
  apply rowMatches_of_bits
  intro i hi
  interval_cases i <;> simp only [bits, encode, encodeSeq, getLsbD_word] <;> simp

theorem getStatus : Statement .getStatus := by unfold Statement; decide
theorem prCmd : Statement .prCmd := by unfold Statement; decide
theorem prStatusRaw : Statement .prStatusRaw := by unfold Statement; decide
theorem prReady : Statement .prReady := by unfold Statement; decide
theorem prData : Statement .prData := by unfold Statement; decide
theorem prDiv : Statement .prDiv := by unfold Statement; decide
theorem prOwnaddr : Statement .prOwnaddr := by unfold Statement; decide
theorem prEn : Statement .prEn := by unfold Statement; decide
theorem prSeqReady : Statement .prSeqReady := by unfold Statement; decide
theorem prResult : Statement .prResult := by unfold Statement; decide
theorem prRdata : Statement .prRdata := by unfold Statement; decide

theorem prBuf (i : Byte) : Statement (.prBuf i) := by
  apply rowMatches_of_bits
  intro j hj
  interval_cases j <;> simp only [bits, encode, BitVec.getLsbD_setWidth, getLsbD_bufPort] <;> simp

theorem pwCmd (v : Word) : Statement (.pwCmd v) := by
  show rowMatches (bits (.portWrite 0x000#9 0#32)) (0x200#32, 0x3FF#32) = true
  decide

theorem pwBuf (i : Byte) (v : Word) : Statement (.pwBuf i v) := by
  apply rowMatches_of_bits
  intro j hj
  interval_cases j <;> simp only [bits, encode, BitVec.getLsbD_or, BitVec.getLsbD_setWidth, getLsbD_bufPort] <;> simp

end Sys2Proof.Laws.TableRow
end

