-- ==== Sys2Proof/Laws/Step.lean ====
section
/-! SUPPORT. Everything an instruction and a step can do, said once: the inversion lemmas from which invariants follow. -/

namespace Sys2Proof.Machine

/-- What a transaction of the host can do to the state it runs on. -/
inductive HostEffect (s : State) : State → Prop where
  /-- A fault or a refusal is raised. -/
  | raised (e : Stop) : HostEffect s (s.raise e)
  /-- A port read returns a value. -/
  | read (p : Port) (v : Word) : HostEffect s (s.deliver p v)
  /-- An engine command is issued. -/
  | issued (c : EngineCmd) (t : State) (hl : s.live) (hr : s.seqReady = true) (h : issue c s = .ok t) : HostEffect s t
  /-- A sequencer command is issued. -/
  | seqIssued (c : SeqCmd) (t : State) (hl : s.live) (hr : s.seqReady = true) (h : seqIssue c s = .ok t) : HostEffect s t
  /-- An element of BUF is written. -/
  | buf (i v : Byte) (hl : s.live) (hr : s.seqReady = true) : HostEffect s { s with buf := bufSet i (some v) s.buf }

theorem hostIssue_effect {c : EngineCmd} {s t : State} (h : act (hostIssue c) s = .next t) : HostEffect s t := by
  obtain ⟨_, h | ⟨e, rfl⟩⟩ := act_next h
  · obtain ⟨hr, hi⟩ := hostMayWrite_ok h.2
    exact .issued c t h.1 hr hi
  · exact .raised e

theorem hostSeqIssue_effect {c : SeqCmd} {s t : State} (h : act (hostSeqIssue c) s = .next t) : HostEffect s t := by
  obtain ⟨_, h | ⟨e, rfl⟩⟩ := act_next h
  · obtain ⟨hr, hi⟩ := hostMayWrite_ok h.2
    exact .seqIssued c t h.1 hr hi
  · exact .raised e

theorem portRead_effect {p : Port} {v : Option Word} {s t : State} (h : act (portRead p v) s = .next t) :
    HostEffect s t := by
  obtain ⟨_, h | ⟨e, rfl⟩⟩ := act_next h
  · obtain ⟨x, _, hx⟩ := needed_ok h.2
    injection hx with hx
    exact hx ▸ .read p x
  · exact .raised e

theorem writeCmd_effect {w : Word} {s t : State} (h : act (writeCmd w) s = .next t) : HostEffect s t := by
  obtain ⟨_, ⟨hl, hf⟩ | ⟨e, rfl⟩⟩ := act_next h
  · unfold writeCmd at hf
    split at hf
    · rename_i c hc
      cases c with
      | engine c => exact hostIssue_effect (act_ok hl hf)
      | sequencer c => exact hostSeqIssue_effect (act_ok hl hf)
    · obtain ⟨_, hr⟩ := hostMayWrite_ok hf
      cases hr
  · exact .raised e

theorem writeBuf_effect {i : Byte} {v : Word} {c : Cause} {s t : State}
    (h : act (hostMayWrite c (writeBuf i v)) s = .next t) : HostEffect s t := by
  obtain ⟨_, ⟨hl, hf⟩ | ⟨e, rfl⟩⟩ := act_next h
  · obtain ⟨hr, hw⟩ := hostMayWrite_ok hf
    unfold writeBuf at hw
    split at hw
    · injection hw with hw
      exact hw ▸ .buf i _ hl hr
    · cases hw
  · exact .raised e

/-- Everything an instruction can do when it answers a next state. -/
theorem exec_effect {i : Instr} {s t : State} (h : exec i s = .next t) : HostEffect s t := by
  cases i with
  | init d o => exact hostIssue_effect h
  | start => exact hostIssue_effect h
  | stop => exact hostIssue_effect h
  | write b => exact hostIssue_effect h
  | readAck => exact hostIssue_effect h
  | readNack => exact hostIssue_effect h
  | eeWriteByte a d => exact hostSeqIssue_effect h
  | eeReadByte a => exact hostSeqIssue_effect h
  | eeWriteArray a n => exact hostSeqIssue_effect h
  | eeReadArray a n => exact hostSeqIssue_effect h
  | getStatus => exact portRead_effect h
  | prCmd => exact portRead_effect h
  | prStatusRaw => exact portRead_effect h
  | prReady => exact portRead_effect h
  | prData => exact portRead_effect h
  | prDiv => exact portRead_effect h
  | prOwnaddr => exact portRead_effect h
  | prEn => exact portRead_effect h
  | prSeqReady => exact portRead_effect h
  | prResult => exact portRead_effect h
  | prRdata => exact portRead_effect h
  | prBuf i => exact portRead_effect h
  | pwCmd v => exact writeCmd_effect h
  | pwBuf i v => exact writeBuf_effect h

theorem execRejected_effect {r : Reject} {s t : State} (h : execRejected r s = .next t) : HostEffect s t := by
  unfold execRejected at h
  cases r with
  | reservedEncoding w =>
    obtain ⟨_, h | ⟨e, rfl⟩⟩ := act_next h
    · obtain ⟨_, hr⟩ := hostMayWrite_ok h.2
      cases hr
    · exact .raised e
  | portUnmapped p =>
    obtain ⟨_, h | ⟨e, rfl⟩⟩ := act_next h
    · cases h.2
    · exact .raised e
  | portReadOnly p =>
    obtain ⟨_, h | ⟨e, rfl⟩⟩ := act_next h
    · cases h.2
    · exact .raised e

/-- Everything a transfer can do. -/
theorem perform_effect {x : Transfer} {s t : State} (h : perform x s = .next t) : HostEffect s t := by
  unfold perform at h
  split at h
  · exact exec_effect h
  · exact execRejected_effect h

/-- What a micro-step can do to the state it runs on: issue an engine command, write the sequencer's own registers, or let the
settle delay pass. -/
inductive SeqEffect (s : State) : State → Prop where
  | issued (c : EngineCmd) (u : State) (h : issue c s = .ok u) (b : Bool) (l : SeqPc) :
      SeqEffect s { u with seqIssued := b, seqPc := l }
  | own (ready : Bool) (result : Option Result) (rdata : Option Byte) (buf : Cells) (op : Option SeqCmd) (pc : SeqPc)
      (issued : Bool) (addr : Option LAddr) (data : Option Byte) (i : Option (BitVec 9)) (r : Option Result)
      (rd : Option Byte) :
      SeqEffect s { s with seqReady := ready, result := result, rdata := rdata, buf := buf, seqOp := op, seqPc := pc,
                           seqIssued := issued, seqAddr := addr, seqData := data, seqI := i, seqR := r, seqRd := rd }
  | delay (l : SeqPc) : SeqEffect s { s with trace := s.trace ++ [.delay], seqPc := l }

theorem prim_effect {c : EngineCmd} {n : StatusName} {l : SeqPc} {s t : State}
    (h : prim c n (State.goto l) s = .ok t) : SeqEffect s t := by
  rcases prim_ok h with ⟨_, u, hu, rfl⟩ | ⟨_, _, rfl⟩ | ⟨_, _, raw, _, ⟨_, rfl⟩ | ⟨_, rfl⟩⟩
  · exact .issued c u hu true u.seqPc
  · exact .own _ _ _ _ _ _ _ _ _ _ _ _
  · exact .own _ _ _ _ _ _ _ _ _ _ _ _
  · exact .own _ _ _ _ _ _ _ _ _ _ _ _

theorem primStop_effect {l : SeqPc} {s t : State} (h : primStop l s = .ok t) : SeqEffect s t := by
  unfold primStop at h
  split at h
  · cases h
  · rename_i u hu
    injection h with h
    subst h
    exact .issued .stop u hu u.seqIssued l

theorem finishByte_effect {op : SeqCmd} {r : Result} {s t : State} (h : finishByte op r s = .ok t) : SeqEffect s t := by
  unfold finishByte at h
  split at h
  · injection h with h
    subst h
    exact .own _ _ _ _ _ _ _ _ _ _ _ _
  · injection h with h
    subst h
    exact .own _ _ _ _ _ _ _ _ _ _ _ _
  · injection h with h
    subst h
    exact .own _ _ _ _ _ _ _ _ _ _ _ _
  · obtain ⟨i, _, h⟩ := needed_ok h
    unfold storeElement at h
    split at h
    · cases h
    · rename_i u hu
      split at hu
      · injection hu with hu
        subst hu
        injection h with h
        subst h
        exact .own _ _ _ _ _ _ _ _ _ _ _ _
      · cases hu

theorem writeLoopHead_effect {op : SeqCmd} {s t : State} (h : writeLoopHead op s = .ok t) : SeqEffect s t := by
  obtain ⟨i, _, h⟩ := needed_ok h
  obtain ⟨n, _, h⟩ := needed_ok h
  split at h
  · injection h with h
    subst h
    exact .own _ _ _ _ _ _ _ _ _ _ _ _
  · split at h
    · cases h
    · obtain ⟨b, _, h⟩ := needed_ok h
      obtain ⟨base, _, h⟩ := needed_ok h
      injection h with h
      subst h
      exact .own _ _ _ _ _ _ _ _ _ _ _ _

theorem readLoopHead_effect {op : SeqCmd} {s t : State} (h : readLoopHead op s = .ok t) : SeqEffect s t := by
  obtain ⟨i, _, h⟩ := needed_ok h
  obtain ⟨n, _, h⟩ := needed_ok h
  split at h
  · injection h with h
    subst h
    exact .own _ _ _ _ _ _ _ _ _ _ _ _
  · obtain ⟨base, _, h⟩ := needed_ok h
    injection h with h
    subst h
    exact .own _ _ _ _ _ _ _ _ _ _ _ _

theorem loopNext_effect {op : SeqCmd} {l : SeqPc} {s t : State} (h : loopNext op l s = .ok t) : SeqEffect s t := by
  unfold loopNext at h
  split at h
  · injection h with h
    subst h
    exact .own _ _ _ _ _ _ _ _ _ _ _ _
  · obtain ⟨i, _, h⟩ := needed_ok h
    injection h with h
    subst h
    exact .own _ _ _ _ _ _ _ _ _ _ _ _

/-- Everything a micro-step can do. -/
theorem seqStep_effect {op : SeqCmd} {s t : State} (h : seqStep op s = .ok t) : SeqEffect s t := by
  unfold seqStep at h
  cases hpc : s.seqPc <;> simp only [hpc] at h
  case idle => injection h with h; subst h; exact .own _ _ _ _ _ _ _ _ _ _ _ _
  case wb1 => exact prim_effect h
  case wb2 => obtain ⟨a, _, h⟩ := needed_ok h; exact prim_effect h
  case wb3 => obtain ⟨a, _, h⟩ := needed_ok h; exact prim_effect h
  case wb4 => obtain ⟨d, _, h⟩ := needed_ok h; exact prim_effect h
  case wb5 => exact primStop_effect h
  case wb6 => exact finishByte_effect h
  case rb1 => exact prim_effect h
  case rb2 => obtain ⟨a, _, h⟩ := needed_ok h; exact prim_effect h
  case rb3 => obtain ⟨a, _, h⟩ := needed_ok h; exact prim_effect h
  case rb4 => exact prim_effect h
  case rb5 => obtain ⟨a, _, h⟩ := needed_ok h; exact prim_effect h
  case rb6 =>
    rcases prim_ok h with ⟨_, u, hu, rfl⟩ | ⟨_, _, rfl⟩ | ⟨_, _, raw, _, ⟨_, rfl⟩ | ⟨_, rfl⟩⟩
    · exact .issued .readNack u hu true u.seqPc
    · exact .own _ _ _ _ _ _ _ _ _ _ _ _
    · exact .own _ _ _ _ _ _ _ _ _ _ _ _
    · exact .own _ _ _ _ _ _ _ _ _ _ _ _
  case rb7 => exact primStop_effect h
  case rb8 => exact finishByte_effect h
  case err => exact finishByte_effect h
  case wa1 => exact writeLoopHead_effect h
  case wa2 => injection h with h; subst h; exact .delay _
  case wa3 => exact loopNext_effect h
  case wa4 => injection h with h; subst h; exact .own _ _ _ _ _ _ _ _ _ _ _ _
  case ra1 => exact readLoopHead_effect h
  case ra2 => injection h with h; subst h; exact .delay _
  case ra3 => exact loopNext_effect h
  case ra4 => injection h with h; subst h; exact .own _ _ _ _ _ _ _ _ _ _ _ _
  case seqEnd => injection h with h; subst h; exact .own _ _ _ _ _ _ _ _ _ _ _ _

/-- What a step can do. -/
inductive StepEffect (s : State) : State → Prop where
  /-- The status table breaks R74. -/
  | config : StepEffect s (s.raise (.refusal .configUnmodelled))
  /-- The turn passes; the host may have skipped a line. -/
  | pass (hl : s.live) (lines : List HostLine) : StepEffect s { s.useTurn with host := lines }
  /-- The host performs a transfer, and its lines advance before or after it. -/
  | host (hl : s.live) (hg : s.nextAgent = .host) (before after : List HostLine) (t : State)
      (h : HostEffect { s.useTurn with host := before } t) : StepEffect s { t with host := after }
  /-- The sequencer takes a micro-step. -/
  | sequencer (hl : s.live) (hg : s.nextAgent = .sequencer) (op : SeqCmd) (ho : s.seqOp = some op)
      (hr : s.seqReady = false) (t : State) (h : seqStep op s.useTurn = .ok t) : StepEffect s t
  /-- The bus environment completes the pending phase. -/
  | bus (hl : s.live) (hg : s.nextAgent = .bus) (c : Pending) (hp : s.pend = some c) (hb : s.busy = true) (t : State)
      (h : complete c s.useTurn = .ok t) : StepEffect s t
  /-- The sequencer or the bus environment raises a fault or a refusal. -/
  | raised (hl : s.live) (e : Stop) : StepEffect s (s.useTurn.raise e)

theorem HostEffect.host_eq {s t : State} (h : HostEffect s t) : t.host = s.host := by
  cases h with
  | raised e => rfl
  | read p v => rfl
  | issued c t hl hr h =>
    have he := (issue_ok h).2
    cases c with
    | stop =>
      obtain ⟨d, rfl, _⟩ := remoteStop_ok he
      rfl
    | _ =>
      simp only [issueEffect] at he
      injection he with he
      subst he
      rfl
  | seqIssued c t hl hr h =>
    obtain ⟨_, _, rfl⟩ := seqIssue_ok h
    cases c <;> rfl
  | buf i v hl hr => rfl

theorem hostTurn_effect {u t : State} (h : hostTurn u = .next t) :
    (∃ lines, t = { u with host := lines }) ∨
    ∃ before after t', HostEffect { u with host := before } t' ∧ t = { t' with host := after } := by
  unfold hostTurn at h
  split at h
  · injection h with h
    exact .inl ⟨u.host, h.symm⟩
  · exact .inr ⟨_, _, t, perform_effect h, rfl⟩
  · unfold afterPoll at h
    split at h
    · rename_i t' ht'
      have he : HostEffect { u with host := u.host } t' := perform_effect ht'
      split at h
      · injection h with h
        exact .inr ⟨_, _, t', he, h.symm⟩
      · injection h with h
        exact .inr ⟨_, t'.host, t', he, h.symm⟩
    · cases h
    · cases h
  · split at h
    · exact .inr ⟨_, _, t, perform_effect h, rfl⟩
    · injection h with h
      exact .inl ⟨_, h.symm⟩

/-- Everything a step can do when it answers a next state. -/
theorem step_effect {s t : State} (h : step s = .next t) : s.faulted = none ∧ StepEffect s t := by
  unfold step machineStep at h
  split at h
  · rename_i o ho
    subst h
    unfold stopped at ho
    split at ho
    · cases ho
    · cases ho
    · split at ho
      · cases ho
      · injection ho with ho
        injection ho with ho
        exact ⟨by assumption, ho ▸ .config⟩
  · rename_i ho
    have hl := live_of_stopped ho
    refine ⟨hl.1, ?_⟩
    cases hg : s.nextAgent with
    | host =>
      rw [hg] at h
      rcases hostTurn_effect h with ⟨lines, rfl⟩ | ⟨before, after, t', he, rfl⟩
      · exact .pass hl lines
      · exact .host hl hg before after t' he
    | sequencer =>
      rw [hg] at h
      simp only [agentTurn, sequencerTurn] at h
      split at h
      · injection h with h
        exact h ▸ .pass hl s.useTurn.host
      · rename_i op ho
        split at h
        · injection h with h
          exact h ▸ .pass hl s.useTurn.host
        · rename_i hr
          obtain ⟨_, h | ⟨e, rfl⟩⟩ := act_next h
          · exact .sequencer hl hg op (by simpa using ho) (by simpa using hr) t h.2
          · exact .raised hl e
    | bus =>
      rw [hg] at h
      simp only [agentTurn, busTurn] at h
      split at h
      · injection h with h
        exact h ▸ .pass hl s.useTurn.host
      · rename_i c hp
        split at h
        · rename_i hb
          obtain ⟨_, h | ⟨e, rfl⟩⟩ := act_next h
          · exact .bus hl hg c (by simpa using hp) (by simpa using hb) t h.2
          · exact .raised hl e
        · injection h with h
          exact h ▸ .pass hl s.useTurn.host

end Sys2Proof.Machine
end

