-- ==== Sys2Proof/Tests/Slice0.lean ====
section
/-! SUPPORT. The model's own tests: ill-formed terms, decoding of words written out from the spec's encodings, one step per
instruction and per agent with results from spec/95_test_vectors.md and the rules it cites, and for every statement with
hypotheses a concrete state that meets them. -/

namespace Sys2Proof.Tests

open Sys2Proof.Machine

/-! ### Ill-formed terms (R66 to R69) -/

theorem test_wf_reserved_opcode : (Instr.pwCmd 0xFF000000#32).wellFormed = false := by decide
theorem test_wf_nonzero_zero_field : (Instr.pwCmd 0x02000001#32).wellFormed = false := by decide
theorem test_wf_assigned_word : (Instr.pwCmd 0x11030500#32).wellFormed = true := by decide
theorem test_wf_wide_buf_value : (Instr.pwBuf 0x00#8 0x1FF#32).wellFormed = false := by decide
theorem test_wf_buf_value : (Instr.pwBuf 0xFF#8 0xFF#32).wellFormed = true := by decide

/-! ### Decoding: words written out from R66, R67 and R69 (families DEC and PORT) -/

theorem test_decode_init : decodeTableWord 32 0x0100FFFF = some (.init 0xFF#8 0xFF#8) := by decide
theorem test_decode_init_fields : decodeTableWord 32 0x01000201 = some (.init 0x02#8 0x01#8) := by decide
theorem test_decode_start : decodeTableWord 32 0x02000000 = some .start := by decide
theorem test_decode_stop : decodeTableWord 32 0x03000000 = some .stop := by decide
theorem test_decode_write : decodeTableWord 32 0x040000FF = some (.write 0xFF#8) := by decide
theorem test_decode_readAck : decodeTableWord 32 0x05000000 = some .readAck := by decide
theorem test_decode_readNack : decodeTableWord 32 0x06000000 = some .readNack := by decide
theorem test_decode_eeWriteByte : decodeTableWord 32 0x10001042 = some (.eeWriteByte 0x0010#16 0x42#8) := by decide
theorem test_decode_eeReadByte : decodeTableWord 32 0x11030500 = some (.eeReadByte 0x0305#16) := by decide
theorem test_decode_eeWriteArray : decodeTableWord 32 0x12002003 = some (.eeWriteArray 0x0020#16 0x03#8) := by decide
theorem test_decode_eeReadArray : decodeTableWord 32 0x1307FF02 = some (.eeReadArray 0x07FF#16 0x02#8) := by decide

/-- R67's reserved words: a must-be-zero field, an opcode between the two groups, an opcode above them. -/
theorem test_decode_reserved :
    decodeTableWord 32 0x00000000 = none ∧ decodeTableWord 32 0x01010000 = none ∧ decodeTableWord 32 0x03800000 = none ∧
    decodeTableWord 32 0x04000100 = none ∧ decodeTableWord 32 0x07000000 = none ∧ decodeTableWord 32 0x11030501 = none ∧
    decodeTableWord 32 0x14000000 = none := by decide

/-- EE_READ_BYTE 0x0305 bit by bit: opcode 0x11, w[23:8] = 0x0305, w[7:0] = 0 (R66 format A). -/
theorem test_decode_bits_command :
    readCommand (0b00010001#8 ++ 0b0000001100000101#16 ++ 0b00000000#8) = .ok (.sequencer (.readByte 0x0305#16)) := by rfl

/-- The pattern of R69 bit by bit: dir in bit 9, the port in bits 8..0. -/
theorem test_decode_bits_port :
    decode (Transfer.ofPattern 0b0100000100#10 0#32) = .ok (.prBuf 0x04#8) ∧
    decode (Transfer.ofPattern 0b1100000001#10 0x22#32) = .ok (.pwBuf 0x01#8 0x22#32) := ⟨rfl, rfl⟩

theorem test_decode_port_reads :
    decodeTableWord 16 0x000 = some .prCmd ∧ decodeTableWord 16 0x001 = some .prStatusRaw ∧
    decodeTableWord 16 0x002 = some .getStatus ∧ decodeTableWord 16 0x003 = some .prReady ∧
    decodeTableWord 16 0x004 = some .prData ∧ decodeTableWord 16 0x005 = some .prDiv ∧
    decodeTableWord 16 0x006 = some .prOwnaddr ∧ decodeTableWord 16 0x007 = some .prEn ∧
    decodeTableWord 16 0x008 = some .prSeqReady ∧ decodeTableWord 16 0x009 = some .prResult ∧
    decodeTableWord 16 0x00A = some .prRdata ∧ decodeTableWord 16 0x100 = some (.prBuf 0x00#8) ∧
    decodeTableWord 16 0x1FF = some (.prBuf 0xFF#8) := by decide

theorem test_decode_port_writes :
    decodeTableWord 16 0x200 = some (.pwCmd 0#32) ∧ decodeTableWord 16 0x300 = some (.pwBuf 0x00#8 0#32) ∧
    decodeTableWord 48 0x020000000200 = some (.pwCmd 0x02000000#32) ∧
    decodeTableWord 48 0x0000007E03FF = some (.pwBuf 0xFF#8 0x7E#32) := by decide

/-- Family PORT: the ports with no transaction. -/
theorem test_decode_port_holes :
    decode (.portRead 0x00B#9) = .error (.portUnmapped 0x00B#9) ∧ decode (.portRead 0x0FF#9) = .error (.portUnmapped 0x0FF#9) ∧
    decode (.portWrite 0x003#9 1#32) = .error (.portReadOnly 0x003#9) ∧
    decode (.portWrite 0x00A#9 0#32) = .error (.portReadOnly 0x00A#9) ∧
    decode (.portWrite 0x00C#9 0#32) = .error (.portUnmapped 0x00C#9) := ⟨rfl, rfl, rfl, rfl, rfl⟩

/-! ### Small states -/

/-- The next state, if the outcome is one. -/
def nextOf (o : Host.Outcome State Fault Refusal) : Option State :=
  match o with
  | .next t => some t
  | .fault _ => none
  | .refused _ => none

/-- Enabled, idle, device mode m. -/
def enabled (m : DeviceMode) : State := { State.launch { resetConfig with mode := m } [] with en := true }

/-- Enabled, in PHASE p. -/
def inPhase (m : DeviceMode) (p : Phase) : State := { enabled m with phase := p }

/-- The phase of command c started in PHASE p; the bus environment moves next and answers a. -/
def pending (m : DeviceMode) (p : Phase) (c : Pending) (a : BusAnswer) : State :=
  { inPhase m p with busy := true, pend := some c, turns := [.bus], answers := [a] }

/-- Operation op at label l, the sequencer moving next. -/
def running (op : SeqCmd) (l : SeqPc) : State :=
  { enabled .oracle with seqReady := false, seqOp := some op, seqPc := l, turns := [.sequencer] }

/-- A running array operation: base 0x0020, n elements, element i. -/
def inArray (op : SeqCmd) (l : SeqPc) (n : Byte) (i : BitVec 9) : State :=
  { running op l with seqBase := some 0x0020#16, seqN := some n, seqI := some i }

/-- An acknowledge, with byte 0x99 on the line. -/
def yes : BusAnswer := ⟨false, .ack, 0x99#8, 0#3⟩

/-- No acknowledge. -/
def no : BusAnswer := ⟨false, .nack, 0x00#8, 0#3⟩

/-- A bus error. -/
def error : BusAnswer := ⟨true, .ack, 0x00#8, 0b111#3⟩

/-! ### The engine commands, one step each (families INIT, START, STOP, WRITE, READ) -/

theorem test_init : (nextOf (exec (.init 0x02#8 0x01#8) State.reset)).map
    (fun t => (t.en, t.div, t.ownaddr, t.phase, t.ready, t.statusRaw, t.trace)) =
    some (true, 0x02#8, 0x01#8, .idle, false, none, []) := by rfl

theorem test_init_twice : (nextOf (exec (.init 0x02#8 0x01#8) (enabled .oracle))).map (fun t => (t.faulted, t.div)) =
    some (some (.fault (.reinit (.command 0x01000201#32))), 0x00#8) := by decide

theorem test_start_issue : (nextOf (exec .start (inPhase .oracle .hold))).map
    (fun t => (t.busy, t.ready, t.statusRaw, t.phase, t.trace)) = some (true, false, none, .hold, []) := by decide

theorem test_start_repeated : (nextOf (step (pending .oracle .mt .start yes))).map
    (fun t => (t.trace, t.statusRaw, t.phase, t.ready, t.busy)) =
    some ([.sr], some 0x10#8, .addr, true, false) := by decide

theorem test_stop : (nextOf (exec .stop (inPhase .oracle .hold))).map
    (fun t => (t.trace, t.phase, t.ready, t.statusRaw)) = some ([.p], .idle, false, none) := by decide

theorem test_stop_commits : (nextOf (exec .stop { inPhase .ref .mt with
      dev := ⟨[], some 0x305#11, some 3#3, .wFull, some 0x99#8⟩ })).map
    (fun t => (t.dev.mem, t.dev.ptr, t.dev.wst, t.dev.wpend)) = some ([(0x305, 0x99#8)], none, .idle, none) := by decide

theorem test_write_address_nack : (nextOf (step (pending .oracle .addr (.write 0xA0#8) no))).map
    (fun t => (t.trace, t.statusRaw, t.phase)) = some ([.tx 0xA0#8 .nack], some 0x20#8, .hold) := by decide

theorem test_write_read_mode : (nextOf (step (pending .oracle .addr (.write 0xA1#8) yes))).map
    (fun t => (t.trace, t.statusRaw, t.phase)) = some ([.tx 0xA1#8 .ack], some 0x40#8, .mr) := by decide

theorem test_readAck : (nextOf (step (pending .oracle .mr .readAck { yes with rx := 0x3C#8 }))).map
    (fun t => (t.trace, t.statusRaw, t.phase, t.data)) = some ([.rx 0x3C#8 .ack], some 0x50#8, .mr, some 0x3C#8) := by decide

theorem test_readAck_issue : (nextOf (exec .readAck { inPhase .oracle .mr with data := some 0x11#8 })).map
    (fun t => (t.data, t.pend)) = some (none, some .readAck) := by decide

theorem test_readNack : (nextOf (step (pending .oracle .mr .readNack yes))).map
    (fun t => (t.trace, t.statusRaw, t.phase, t.data)) =
    some ([.rx 0x99#8 .nack], some 0x58#8, .hold, some 0x99#8) := by decide

theorem test_readNack_out_of_order : (nextOf (exec .readNack (inPhase .oracle .addr))).map (fun t => t.faulted) =
    some (some (.fault (.outOfOrder (.command 0x06000000#32)))) := by decide

/-- Family START: a bus error; the low bits are drawn 111 (family MASK). -/
theorem test_bus_error : (nextOf (step (pending .oracle .idle .start error))).map
    (fun t => (t.trace, t.statusRaw, t.phase, t.ready)) = some ([.berr], some 0x07#8, .idle, true) := by decide

/-- Program P4, line 8: the device returns MEM[PTR] and moves PTR on. -/
theorem test_device_read : (nextOf (step { pending .ref .mr .readNack yes with
      dev := ⟨[(0x001, 0x20#8)], some 0x001#11, some 0#3, .rd, none⟩ })).map
    (fun t => (t.data, t.dev.ptr)) = some (some 0x20#8, some 0x002#11) := by decide

/-- R53: a read-mode control byte with no pointer is refused. -/
theorem test_device_refuses : (nextOf (step (pending .ref .addr (.write 0xA1#8) yes))).map (fun t => t.faulted) =
    some (some (.refusal (.deviceUnmodelled (.command 0x040000A1#32)))) := by decide

/-! ### The sequencer (families EEWB, EERB, EEWA, EERA) -/

theorem test_eeWriteByte : (nextOf (exec (.eeWriteByte 0x0010#16 0x42#8) (enabled .oracle))).map
    (fun t => (t.seqReady, t.result, t.seqPc, t.seqAddr, t.seqData)) =
    some (false, none, .wb1, some 0x0010#16, some 0x42#8) := by rfl

/-- WB2 of W4 sends control byte 0xA0. -/
theorem test_eeWriteByte_control : (nextOf (step { running (.writeByte 0x0010#16 0x42#8) .wb2 with
      phase := .addr, seqAddr := some 0x0010#16 })).map (fun t => (t.pend, t.busy, t.seqIssued)) =
    some (some (.write 0xA0#8), true, true) := by decide

theorem test_eeReadByte : (nextOf (exec (.eeReadByte 0x0305#16) { enabled .oracle with rdata := some 0x11#8 })).map
    (fun t => (t.seqReady, t.rdata, t.seqPc, t.seqAddr)) = some (false, none, .rb1, some 0x0305#16) := by decide

/-- RB5 of program P2 sends control byte 0xA7. -/
theorem test_eeReadByte_control : (nextOf (step { running (.readByte 0x0305#16) .rb5 with
      phase := .addr, seqAddr := some 0x0305#16 })).map (fun t => t.pend) = some (some (.write 0xA7#8)) := by decide

theorem test_eeWriteArray : (nextOf (exec (.eeWriteArray 0x0020#16 0x03#8) (enabled .oracle))).map
    (fun t => (t.seqReady, t.seqPc, t.seqBase, t.seqN, t.seqI)) =
    some (false, .wa1, some 0x0020#16, some 0x03#8, some 0#9) := by rfl

/-- Family EEWA: 16-bit wrap of the element's address. -/
theorem test_eeWriteArray_wrap : (nextOf (step { inArray (.writeArray 0xFFFF#16 0x02#8) .wa1 0x02#8 1#9 with
      seqBase := some 0xFFFF#16, buf := [(1, 0x22#8)] })).map (fun t => (t.seqAddr, t.seqData, t.seqPc)) =
    some (some 0x0000#16, some 0x22#8, .wb1) := by decide

theorem test_eeReadArray : (nextOf (exec (.eeReadArray 0x0010#16 0x02#8) (enabled .oracle))).map
    (fun t => (t.seqReady, t.seqPc, t.seqBase, t.seqN, t.seqI)) =
    some (false, .ra1, some 0x0010#16, some 0x02#8, some 0#9) := by rfl

/-- Family EERA: a failed element leaves none in BUF. -/
theorem test_eeReadArray_failed : (nextOf (step { inArray (.readArray 0x0010#16 0x02#8) .err 0x02#8 1#9 with
      buf := [(0, 0x42#8), (1, 0x43#8)] })).map (fun t => (t.buf, t.seqR, t.seqPc)) =
    some ([(0, 0x42#8)], some .error, .ra2) := by decide

/-! ### Port transactions (families MASK, PORT, PRIO) -/

theorem test_getStatus : (nextOf (exec .getStatus { enabled .oracle with statusRaw := some 0x1B#8 })).map
    (fun t => t.hostReads) = some [(0x002#9, 0x18#32)] := by decide

theorem test_getStatus_none : (nextOf (exec .getStatus State.reset)).map (fun t => t.faulted) =
    some (some (.fault (.readUnwritten (.port 0x002#9)))) := by decide

theorem test_prCmd : (nextOf (exec .prCmd State.reset)).map (fun t => t.hostReads) = some [(0x000#9, 0#32)] := by decide

theorem test_prStatusRaw : (nextOf (exec .prStatusRaw { enabled .oracle with statusRaw := some 0xFB#8 })).map
    (fun t => t.hostReads) = some [(0x001#9, 0xFB#32)] := by decide

theorem test_prReady : (nextOf (exec .prReady State.reset)).map (fun t => t.hostReads) = some [(0x003#9, 0#32)] := by decide

theorem test_prData : (nextOf (exec .prData { enabled .oracle with data := some 0xA0#8 })).map (fun t => t.hostReads) =
    some [(0x004#9, 0xA0#32)] := by decide

theorem test_prDiv : (nextOf (exec .prDiv { enabled .oracle with div := 0xFF#8 })).map (fun t => t.hostReads) =
    some [(0x005#9, 0xFF#32)] := by decide

theorem test_prOwnaddr : (nextOf (exec .prOwnaddr { enabled .oracle with ownaddr := 0x48#8 })).map (fun t => t.hostReads) =
    some [(0x006#9, 0x48#32)] := by decide

theorem test_prEn : (nextOf (exec .prEn State.reset)).map (fun t => t.hostReads) = some [(0x007#9, 0#32)] := by decide

theorem test_prSeqReady : (nextOf (exec .prSeqReady State.reset)).map (fun t => t.hostReads) =
    some [(0x008#9, 1#32)] := by decide

theorem test_prResult : (nextOf (exec .prResult { enabled .oracle with result := some .error })).map
    (fun t => t.hostReads) = some [(0x009#9, 1#32)] := by decide

theorem test_prResult_none : (nextOf (exec .prResult State.reset)).map (fun t => t.faulted) =
    some (some (.fault (.readUnwritten (.port 0x009#9)))) := by decide

theorem test_prRdata : (nextOf (exec .prRdata { enabled .oracle with rdata := some 0x99#8 })).map (fun t => t.hostReads) =
    some [(0x00A#9, 0x99#32)] := by decide

theorem test_prBuf : (nextOf (exec (.prBuf 0xFF#8) { enabled .oracle with buf := [(255, 0x7E#8)] })).map
    (fun t => t.hostReads) = some [(0x1FF#9, 0x7E#32)] := by decide

theorem test_prBuf_none : (nextOf (exec (.prBuf 0x04#8) State.reset)).map (fun t => t.faulted) =
    some (some (.fault (.readUnwritten (.port 0x104#9)))) := by decide

theorem test_pwCmd_not_initialised : (nextOf (exec (.pwCmd 0x02000000#32) State.reset)).map (fun t => t.faulted) =
    some (some (.fault (.notInitialised (.command 0x02000000#32)))) := by decide

theorem test_pwCmd_reserved_before_en : (nextOf (exec (.pwCmd 0xFF000000#32) State.reset)).map (fun t => t.faulted) =
    some (some (.fault (.reservedEncoding (.command 0xFF000000#32)))) := by decide

theorem test_pwBuf : (nextOf (exec (.pwBuf 0xFF#8 0x7E#32) State.reset)).map (fun t => t.buf) =
    some [(255, 0x7E#8)] := by decide

theorem test_pwBuf_wide : (nextOf (exec (.pwBuf 0x00#8 0x1FF#32) State.reset)).map (fun t => t.faulted) =
    some (some (.fault (.reservedEncoding (.port 0x100#9)))) := by decide

/-- The first step after reset runs the word laid before the host. -/
theorem test_withFetchWord : (nextOf (step (State.reset.withFetchWord 32 0x01000201))).map (fun t => (t.en, t.div, t.host)) =
    some (true, 0x02#8, []) := by decide

/-! ### Witnesses: a state that meets a statement's hypotheses, clause by clause -/

theorem test_witness_EveryCommandWordDecodesOrIsReserved :
    (0x02000000#32, 0xFFFFFFFF#32) ∈ commandRows ∧ rowMatches 0x02000000#32 (0x02000000#32, 0xFFFFFFFF#32) = true := by decide

theorem test_witness_ResetLeavesTheStatedValues : State.reset = State.launch resetConfig [] := rfl

theorem test_witness_ResetMeetsTheInvariant : Memory.wf [(0x000, 0x10#8), (0x7FF, 0xAB#8)] = true := by decide

/-! #### Invariants: a state after reset, and one inside WB2 of a running operation in mode REF -/

/-- WB2 in flight, mode REF, the bus environment moving next. -/
def inFlight : State :=
  { pending .ref .addr (.write 0xA6#8) yes with
      seqReady := false, seqOp := some (.writeByte 0x0305#16 0x99#8), seqPc := .wb2, seqIssued := true,
      seqAddr := some 0x0305#16, seqData := some 0x99#8 }

/-- The machine after reset, the host moving next. -/
def atReset : State := { State.reset with turns := [.host] }

theorem test_witness_EngineInv_reset : EngineInv atReset :=
  ⟨rfl, fun h => (nomatch h), rfl, fun _ h => (nomatch h), fun _ h => (nomatch h), fun _ => ⟨rfl, rfl, rfl, rfl⟩⟩

theorem test_witness_EngineInv_inFlight : EngineInv inFlight :=
  ⟨rfl, fun h => (nomatch h), rfl, fun _ h => by injection h with h; subst h; rfl, fun _ h => (nomatch h), fun h => (nomatch h)⟩

theorem test_witness_DeviceInv_reset : DeviceInv atReset :=
  ⟨rfl, fun h => (nomatch h), fun h => (nomatch h), fun h => (nomatch h), by decide, fun h => (nomatch h)⟩

theorem test_witness_DeviceInv_inFlight : DeviceInv inFlight :=
  ⟨rfl, fun _ h => (nomatch h), fun _ h => (nomatch h), fun h => (nomatch h), by decide, fun h => (nomatch h)⟩

theorem test_witness_MachineInv_reset : MachineInv atReset :=
  ⟨test_witness_EngineInv_reset, test_witness_DeviceInv_reset, ⟨rfl, fun _ => ⟨rfl, rfl⟩, fun _ h => (nomatch h)⟩, rfl⟩

theorem test_witness_MachineInv_inFlight : MachineInv inFlight := by
  refine ⟨test_witness_EngineInv_inFlight, test_witness_DeviceInv_inFlight,
    ⟨rfl, fun h => (nomatch h), fun op h => ?_⟩, rfl⟩
  injection h with h
  subst h
  refine ⟨rfl, rfl, fun _ => rfl, fun _ => rfl, trivial, fun h => (nomatch h), fun _ =>
    ⟨.addressAckW, .wb3, rfl, fun _ => ⟨rfl, fun p h => ?_⟩, fun h => (nomatch h)⟩⟩
  injection h

theorem test_witness_EveryStepKeepsTheEngineInvariant : EngineInv inFlight ∧ (nextOf (step inFlight)).isSome = true ∧
    EngineInv atReset ∧ (nextOf (step atReset)).isSome = true :=
  ⟨test_witness_EngineInv_inFlight, by decide, test_witness_EngineInv_reset, by decide⟩

theorem test_witness_EveryStepKeepsTheDeviceInvariant : DeviceInv inFlight ∧ (nextOf (step inFlight)).isSome = true ∧
    DeviceInv atReset ∧ (nextOf (step atReset)).isSome = true :=
  ⟨test_witness_DeviceInv_inFlight, by decide, test_witness_DeviceInv_reset, by decide⟩

theorem test_witness_EveryStepKeepsTheMachineInvariant : MachineInv inFlight ∧ (nextOf (step inFlight)).isSome = true ∧
    MachineInv atReset ∧ (nextOf (step atReset)).isSome = true :=
  ⟨test_witness_MachineInv_inFlight, by decide, test_witness_MachineInv_reset, by decide⟩

/-! #### Engine commands -/

theorem test_witness_InitProgramsAndEnables :
    State.reset.live ∧ State.reset.seqReady = true ∧ State.reset.en = false := by decide

theorem test_witness_StartBeginsAPhase : ∀ p ∈ [Phase.idle, .addr, .mt, .hold],
    (inPhase .oracle p).canCommand ∧ (inPhase .oracle p).phase ≠ .mr := by decide

theorem test_witness_StopReleasesTheBus : ∀ p ∈ [Phase.addr, .mt, .hold],
    ((inPhase .oracle p).canCommand ∧ (inPhase .oracle p).phase = p ∧ (inPhase .oracle p).cfg.mode = .oracle) ∧
    ((inPhase .ref p).canCommand ∧ (inPhase .ref p).phase = p ∧ (inPhase .ref p).cfg.mode = .ref ∧
      (inPhase .ref p).dev.wst ≠ .wFull) := by decide

/-- A device with a full write at the top of memory, in PHASE MT. -/
def fullWrite : State := { inPhase .ref .mt with dev := ⟨[(0x7FF, 0x11#8)], some 0x7FF#11, some 7#3, .wFull, some 0x00#8⟩ }

theorem test_witness_StopStoresTheAcknowledgedByte :
    fullWrite.canCommand ∧ fullWrite.phase = .mt ∧ fullWrite.cfg.mode = .ref ∧ fullWrite.dev.wst = .wFull ∧
    fullWrite.dev.ptr = some 0x7FF#11 ∧ fullWrite.dev.wpend = some 0x00#8 ∧ Memory.wf fullWrite.dev.mem = true := by decide

theorem test_witness_WriteBeginsAPhase : ∀ p ∈ [Phase.addr, .mt], (inPhase .oracle p).canCommand ∧ (inPhase .oracle p).phase = p := by
  decide

theorem test_witness_ReceiveCommandsBeginAPhase : (inPhase .oracle .mr).canCommand ∧ (inPhase .oracle .mr).phase = .mr := by decide

/-- The sequencer running: the host may not write. -/
def busySeq : State := running (.readByte 0x0305#16) .rb1

theorem test_witness_EngineCommandsAreCheckedInOrder :
    (busySeq.live ∧ busySeq.seqReady = false) ∧
    (State.reset.live ∧ State.reset.seqReady = true ∧ assignedWord 0x02000001#32 = false) ∧
    ((enabled .oracle).live ∧ (enabled .oracle).seqReady = true ∧ (enabled .oracle).en = true ∧
      (∃ d o, EngineCmd.init 0x02#8 0x01#8 = .init d o)) ∧
    (State.reset.en = false ∧ ∀ d o, EngineCmd.start ≠ .init d o) ∧
    ((pending .oracle .idle .start yes).live ∧ (pending .oracle .idle .start yes).seqReady = true ∧
      (pending .oracle .idle .start yes).en = true ∧ (pending .oracle .idle .start yes).busy = true ∧
      ∀ d o, EngineCmd.stop ≠ .init d o) ∧
    ((enabled .oracle).busy = false ∧ legalIn (.write 0x42#8) (enabled .oracle).phase = false ∧
      ∀ d o, EngineCmd.write 0x42#8 ≠ .init d o) := by
  refine ⟨by decide, by decide, ⟨by decide, rfl, rfl, _, _, rfl⟩, ⟨rfl, by simp⟩, ⟨by decide, rfl, rfl, rfl, by simp⟩,
    rfl, rfl, by simp⟩

theorem test_witness_OnlyTheMarkedCallsAreOutOfOrder : ∀ p ∈ [Phase.idle, .addr, .mt, .mr, .hold],
    (inPhase .oracle p).canCommand := by decide

/-! #### Completions -/

theorem test_witness_StartCompletes : ∀ p ∈ [Phase.idle, .addr, .mt, .hold],
    (pending .oracle p .start yes).live ∧ (pending .oracle p .start yes).busy = true ∧
    (pending .oracle p .start yes).pend = some .start ∧ (pending .oracle p .start yes).answers = [yes] ∧
    yes.berr = false := by decide

theorem test_witness_BusErrorReleasesTheBus :
    (pending .ref .mr .readAck error).live ∧ (pending .ref .mr .readAck error).busy = true ∧
    (pending .ref .mr .readAck error).pend = some .readAck ∧ (pending .ref .mr .readAck error).answers = [error] ∧
    error.berr = true := by decide

theorem test_witness_WriteCompletesInOracleMode : ∀ p ∈ [Phase.addr, .mt], ∀ a ∈ [yes, no],
    (pending .oracle p (.write 0xA1#8) a).live ∧ (pending .oracle p (.write 0xA1#8) a).cfg.mode = .oracle ∧
    (pending .oracle p (.write 0xA1#8) a).busy = true ∧ (pending .oracle p (.write 0xA1#8) a).phase = p ∧
    (pending .oracle p (.write 0xA1#8) a).pend = some (.write 0xA1#8) ∧
    (pending .oracle p (.write 0xA1#8) a).answers = [a] ∧ a.berr = false := by decide

/-- A control byte in flight to a device whose pointer is ptr. -/
def control (b : Byte) (ptr : Option EAddr) (a : BusAnswer) : State :=
  { pending .ref .addr (.write b) a with dev := ⟨[], ptr, none, .idle, none⟩ }

theorem test_witness_ControlByteReachesTheDevice :
    (∀ b ∈ [0x90#8, 0xA0#8, 0xA1#8], ∀ a ∈ [yes, no],
      (control b (some 0x7FF#11) a).live ∧ (control b (some 0x7FF#11) a).cfg.mode = .ref ∧
      (control b (some 0x7FF#11) a).busy = true ∧ (control b (some 0x7FF#11) a).pend = some (.write b) ∧
      (control b (some 0x7FF#11) a).phase = .addr ∧ (control b (some 0x7FF#11) a).answers = [a] ∧ a.berr = false) ∧
    ((0x90#8).extractLsb' 4 4 ≠ 0xA#4 ∧ no.ack = .nack) ∧
    ((0xA0#8).extractLsb' 4 4 = 0xA#4 ∧ yes.ack = .ack ∧ (0xA0#8).extractLsb' 0 1 = 0#1) ∧
    ((0xAF#8).extractLsb' 4 4 = 0xA#4 ∧ (0xAF#8).extractLsb' 0 1 = 1#1 ∧
      (0x7FF#11).extractLsb' 8 3 = (0xAF#8).extractLsb' 1 3) ∧
    ((0xA1#8).extractLsb' 4 4 = 0xA#4 ∧ (0xA1#8).extractLsb' 0 1 = 1#1 ∧
      (∀ ptr, (control 0xA1#8 (some 0x7FF#11) yes).dev.ptr = some ptr → ptr.extractLsb' 8 3 ≠ (0xA1#8).extractLsb' 1 3) ∧
      (∀ ptr, (control 0xA1#8 none yes).dev.ptr = some ptr → ptr.extractLsb' 8 3 ≠ (0xA1#8).extractLsb' 1 3)) := by
  refine ⟨by decide, by decide, by decide, by decide, by decide, by decide, ?_, fun _ h => (nomatch h)⟩
  intro ptr h
  injection h with h
  subst h
  decide

/-- A byte of a write transaction in flight, the device at position w. -/
def toDevice (w : DevPhase) (a : BusAnswer) : State :=
  { pending .ref .mt (.write 0x05#8) a with dev := ⟨[], some 0x305#11, some 3#3, w, some 0x42#8⟩ }

theorem test_witness_WriteTransactionBytesReachTheDevice : ∀ w ∈ [DevPhase.wAddr, .wData, .wFull], ∀ a ∈ [yes, no],
    (toDevice w a).live ∧ (toDevice w a).cfg.mode = .ref ∧ (toDevice w a).busy = true ∧
    (toDevice w a).pend = some (.write 0x05#8) ∧ (toDevice w a).phase = .mt ∧ (toDevice w a).answers = [a] ∧
    a.berr = false ∧ (toDevice w a).dev.wst = w ∧ (toDevice w a).dev.blk = some 3#3 := by decide

/-- A byte being received from a device that sends the byte at the top of memory. -/
def fromDevice (m : DeviceMode) (c : Pending) : State :=
  { pending m .mr c yes with dev := ⟨[(0x7FF, 0xAB#8)], some 0x7FF#11, none, .rd, none⟩ }

theorem test_witness_ReceivedByteLandsInData : ∀ m ∈ [DeviceMode.oracle, .ref], ∀ c ∈ [Pending.readAck, .readNack],
    (fromDevice m c).live ∧ (fromDevice m c).busy = true ∧ (fromDevice m c).answers = [yes] ∧ yes.berr = false ∧
    (fromDevice m c).cfg.mode = m ∧ (fromDevice m c).pend = some c ∧ (fromDevice m c).dev.wst = .rd ∧
    (fromDevice m c).dev.ptr = some 0x7FF#11 := by decide

/-! #### Ports -/

/-- Every register that can be none holds a value. -/
def written : State :=
  { enabled .oracle with statusRaw := some 0x0F#8, data := some 0x42#8, result := some .success, rdata := some 0x99#8,
                         buf := [(0, 0x11#8), (255, 0x7E#8)] }

theorem test_witness_PortReadsReturnTheRegisters :
    (written.live ∧ written.statusRaw = some 0x0F#8 ∧ written.data = some 0x42#8 ∧ written.result = some .success ∧
      written.rdata = some 0x99#8 ∧ bufGet 0x00#8 written.buf = some 0x11#8 ∧ bufGet 0xFF#8 written.buf = some 0x7E#8) ∧
    (State.reset.live ∧ State.reset.statusRaw = none ∧ State.reset.data = none ∧ State.reset.result = none ∧
      State.reset.rdata = none ∧ bufGet 0x00#8 State.reset.buf = none ∧ bufGet 0xFF#8 State.reset.buf = none) ∧
    (0x00B ≤ (0x00B#9).toNat ∧ (0x0FF#9).toNat ≤ 0x0FF) := by decide

theorem test_witness_PortReadsChangeNothing :
    isPortRead .prData = true ∧ (nextOf (exec .prData written)).isSome = true ∧
    (nextOf (exec .prData State.reset)).isSome = true := by decide

theorem test_witness_BufWriteSetsOneElement : State.reset.live ∧ State.reset.seqReady = true ∧
    (0#32).toNat < 256 ∧ (0xFF#32).toNat < 256 ∧ bufWf written.buf = true := by decide

theorem test_witness_PortWritesAreCheckedInOrder :
    (State.reset.live ∧ busySeq.live ∧ busySeq.seqReady = false ∧ State.reset.seqReady = true ∧
      0x00B ≤ (0x00B#9).toNat ∧ (0x0FF#9).toNat ≤ 0x0FF ∧ 0x001 ≤ (0x001#9).toNat ∧ (0x00A#9).toNat ≤ 0x00A ∧
      256 ≤ (0x100#32).toNat ∧ (0xFF#32).toNat < 256) ∧
    readCommand 0x02000000#32 = .ok (.engine .start) ∧
    readCommand 0xFF000000#32 = .error (.reservedEncoding 0xFF000000#32) := ⟨by decide, rfl, rfl⟩

theorem test_witness_CmdWriteIssuesItsCommand : decodeCommand 0x10001042#32 = .ok (.eeWriteByte 0x0010#16 0x42#8) := by rfl

theorem test_witness_CmdWriteCompletes :
    (State.reset.live ∧ State.reset.seqReady = true ∧ State.reset.en = false) ∧
    (∀ p ∈ [Phase.idle, .addr, .mt, .hold], (inPhase .oracle p).live ∧ (inPhase .oracle p).seqReady = true ∧
      (inPhase .oracle p).en = true ∧ (inPhase .oracle p).busy = false ∧ (inPhase .oracle p).phase = p ∧ p ≠ .mr) := by decide

/-! #### The sequencer -/

theorem test_witness_SequencerCommandsLoadTheirOperands : (enabled .oracle).canCommand := by decide

theorem test_witness_SequencerCommandsAreCheckedInOrder :
    (busySeq.live ∧ busySeq.seqReady = false) ∧ (State.reset.live ∧ State.reset.seqReady = true ∧ State.reset.en = false) ∧
    ((pending .oracle .idle .start yes).live ∧ (pending .oracle .idle .start yes).seqReady = true ∧
      (pending .oracle .idle .start yes).en = true ∧ (pending .oracle .idle .start yes).busy = true) ∧
    ((inPhase .oracle .mr).live ∧ (inPhase .oracle .mr).seqReady = true ∧ (inPhase .oracle .mr).en = true ∧
      (inPhase .oracle .mr).busy = false) := by decide

/-- RB6 of a read: the command to issue, and after its completion with status raw. -/
def atRb6 (issued ready : Bool) (raw : Option Byte) : State :=
  { running (.readByte 0x0305#16) .rb6 with
      phase := .mr, seqAddr := some 0x0305#16, seqIssued := issued, ready := ready, statusRaw := raw, data := some 0x99#8 }

theorem test_witness_MicroStepsIssueHoldAndCheck :
    (∀ s ∈ [atRb6 false false none, atRb6 true false none, atRb6 true true (some 0x5F#8), atRb6 true true (some 0x00#8)],
      s.live ∧ s.seqOp = some (.readByte 0x0305#16) ∧ s.seqReady = false ∧ startsAt s = some .readNack ∧
      expectAt s.seqPc = some (.dataNack, .rb7)) ∧
    ((atRb6 false false none).seqIssued = false ∧ (atRb6 false false none).en = true ∧
      (atRb6 false false none).busy = false ∧ legalIn Pending.readNack.cmd (atRb6 false false none).phase = true) ∧
    ((atRb6 true false none).seqIssued = true ∧ (atRb6 true false none).ready = false) ∧
    (0x5F#8 &&& 0xF8#8 = (atRb6 true true (some 0x5F#8)).cfg.sc.code .dataNack) ∧
    (0x00#8 &&& 0xF8#8 ≠ (atRb6 true true (some 0x00#8)).cfg.sc.code .dataNack) := by decide

/-- The stop of an array element, with a full write at the top of memory. -/
def atStop (op : SeqCmd) (l : SeqPc) (m : DeviceMode) (p : Phase) (w : DevPhase) : State :=
  { running op l with
      cfg := { resetConfig with mode := m }, phase := p,
      dev := ⟨[(0x7FF, 0x11#8)], some 0x7FF#11, some 7#3, w, some 0x00#8⟩ }

theorem test_witness_MicroSteps_stop : ∀ m ∈ [DeviceMode.oracle, .ref], ∀ w ∈ [DevPhase.wFull, .rd],
    ∀ x ∈ [(SeqCmd.writeArray 0x0020#16 0x02#8, SeqPc.wb5, Phase.mt), (.readArray 0x0020#16 0x02#8, .rb7, .hold)],
    (atStop x.1 x.2.1 m x.2.2 w).live ∧ (atStop x.1 x.2.1 m x.2.2 w).seqOp = some x.1 ∧
    (atStop x.1 x.2.1 m x.2.2 w).seqReady = false ∧ (atStop x.1 x.2.1 m x.2.2 w).seqPc = x.2.1 ∧
    (atStop x.1 x.2.1 m x.2.2 w).en = true ∧ (atStop x.1 x.2.1 m x.2.2 w).busy = false ∧
    (atStop x.1 x.2.1 m x.2.2 w).phase = x.2.2 ∧ (atStop x.1 x.2.1 m x.2.2 w).cfg.mode = m ∧
    (atStop x.1 x.2.1 m x.2.2 w).dev.wst = w ∧ (atStop x.1 x.2.1 m x.2.2 w).dev.ptr = some 0x7FF#11 ∧
    (atStop x.1 x.2.1 m x.2.2 w).dev.wpend = some 0x00#8 ∧
    Memory.wf (atStop x.1 x.2.1 m x.2.2 w).dev.mem = true := by decide

/-- An array element ends with P (the example of R100). -/
theorem test_array_element_stop : (nextOf (step (atStop (.writeArray 0x0020#16 0x02#8) .wb5 .oracle .mt .idle))).map
    (fun t => (t.trace, t.phase, t.seqPc)) = some ([.p], .idle, .wb6) := by decide

theorem test_witness_SingleByteOperationsEnd :
    (∀ l ∈ [SeqPc.wb6, .err], (running (.writeByte 0x0010#16 0x42#8) l).live ∧
      (running (.writeByte 0x0010#16 0x42#8) l).seqReady = false ∧ (running (.writeByte 0x0010#16 0x42#8) l).seqPc = l) ∧
    (∀ l ∈ [SeqPc.rb8, .err], (running (.readByte 0x0010#16) l).live ∧
      (running (.readByte 0x0010#16) l).seqReady = false ∧ (running (.readByte 0x0010#16) l).seqPc = l) := by decide

/-- An array of 255 elements at element i. -/
def long (op : SeqCmd) (l : SeqPc) (strict : Bool) (r : Option Result) (i : BitVec 9) : State :=
  { inArray op l 0xFF#8 i with
      cfg := { resetConfig with strictArray := strict }, seqR := r, buf := [(0, 0x11#8), (254, 0x22#8)] }

theorem test_witness_WriteArrayLoops :
    (∀ l ∈ [SeqPc.wa1, .wb6, .err, .wa2, .wa3, .wa4, .seqEnd], ∀ strict ∈ [false, true],
      (long (.writeArray 0x0020#16 0xFF#8) l strict (some .error) 254#9).live ∧
      (long (.writeArray 0x0020#16 0xFF#8) l strict (some .error) 254#9).seqReady = false ∧
      (long (.writeArray 0x0020#16 0xFF#8) l strict (some .error) 254#9).seqPc = l ∧
      (long (.writeArray 0x0020#16 0xFF#8) l strict (some .error) 254#9).cfg.strictArray = strict) ∧
    ((255#9).toNat = (0xFF#8).toNat ∧ (254#9).toNat < (0xFF#8).toNat ∧ (0#9).toNat < (0xFF#8).toNat ∧
      bufGet (BitVec.setWidth 8 1#9) [(0, 0x11#8), (254, 0x22#8)] = none ∧
      bufGet (BitVec.setWidth 8 254#9) [(0, 0x11#8), (254, 0x22#8)] = some 0x22#8) := by decide

theorem test_witness_ReadArrayLoops :
    (∀ l ∈ [SeqPc.ra1, .rb8, .err, .ra2, .ra3, .ra4, .seqEnd], ∀ strict ∈ [false, true],
      (long (.readArray 0x0020#16 0xFF#8) l strict (some .error) 254#9).live ∧
      (long (.readArray 0x0020#16 0xFF#8) l strict (some .error) 254#9).seqReady = false ∧
      (long (.readArray 0x0020#16 0xFF#8) l strict (some .error) 254#9).seqPc = l ∧
      (long (.readArray 0x0020#16 0xFF#8) l strict (some .error) 254#9).cfg.strictArray = strict ∧
      bufWf (long (.readArray 0x0020#16 0xFF#8) l strict (some .error) 254#9).buf = true) ∧
    ((255#9).toNat = (0xFF#8).toNat ∧ (254#9).toNat < (0xFF#8).toNat ∧ (254#9).toNat < 256 ∧ (0#9).toNat < 256) := by decide

/-- WB1 of a write started in PHASE MR: its START is out of order. -/
def mrStart : State :=
  { running (.writeByte 0x0010#16 0x42#8) .wb1 with
      phase := .mr, seqAddr := some 0x0010#16, seqData := some 0x42#8 }

theorem test_witness_SequencerFaultsOnlyWhereStated :
    MachineInv mrStart ∧ mrStart.live ∧ mrStart.seqOp = some (.writeByte 0x0010#16 0x42#8) ∧
    (nextOf (sequencerTurn mrStart)).isSome = true := by
  refine ⟨⟨⟨rfl, fun h => (nomatch h), rfl, fun _ h => (nomatch h), fun _ h => (nomatch h), fun h => (nomatch h)⟩,
    ⟨rfl, fun h => (nomatch h), fun h => (nomatch h), fun h => (nomatch h), by decide, fun h => (nomatch h)⟩,
    ⟨rfl, fun h => (nomatch h), fun op h => ?_⟩, rfl⟩, by decide, rfl, by decide⟩
  injection h with h
  subst h
  exact ⟨rfl, rfl, fun _ => rfl, fun _ => rfl, trivial, fun _ => ⟨rfl, fun _ h => (nomatch h)⟩, fun h => (nomatch h)⟩

/-- WA1 with a missing element of BUF, the other fault of a running operation. -/
def holeStart : State := inArray (.writeArray 0x0020#16 0x02#8) .wa1 0x02#8 1#9

theorem test_witness_MachineInv_holeStart : MachineInv holeStart := by
  refine ⟨⟨rfl, fun h => (nomatch h), rfl, fun _ h => (nomatch h), fun _ h => (nomatch h), fun h => (nomatch h)⟩,
    ⟨rfl, fun h => (nomatch h), fun h => (nomatch h), fun h => (nomatch h), by decide, fun h => (nomatch h)⟩,
    ⟨rfl, fun h => (nomatch h), fun op h => ?_⟩, rfl⟩
  injection h with h
  subst h
  exact ⟨rfl, rfl, by decide, by decide, ⟨_, _, _, rfl, rfl, rfl, by decide, fun h => absurd rfl h, by decide⟩,
    fun _ => ⟨rfl, fun _ h => (nomatch h)⟩, fun h => (nomatch h)⟩

theorem test_witness_SequencerFaults_hole :
    holeStart.live ∧ holeStart.seqOp = some (.writeArray 0x0020#16 0x02#8) ∧ holeStart.seqI = some 1#9 ∧
    bufGet (BitVec.setWidth 8 1#9) holeStart.buf = none ∧ (nextOf (sequencerTurn holeStart)).isSome = true := by decide

theorem test_witness_SequencerDeviceInv : SequencerDeviceInv inFlight :=
  ⟨fun _ _ _ _ _ => trivial, fun _ _ _ _ _ h => (nomatch h)⟩

theorem test_witness_SequencerPhasesAreNeverRefused :
    MachineInv inFlight ∧ SequencerDeviceInv inFlight ∧ inFlight.live ∧
    inFlight.seqOp = some (.writeByte 0x0305#16 0x99#8) ∧ (nextOf (busTurn inFlight)).isSome = true :=
  ⟨test_witness_MachineInv_inFlight, test_witness_SequencerDeviceInv, by decide, rfl, by decide⟩

theorem test_witness_EveryStepKeepsTheSequencerDeviceInvariant :
    MachineInv inFlight ∧ SequencerDeviceInv inFlight ∧ (nextOf (step inFlight)).isSome = true :=
  ⟨test_witness_MachineInv_inFlight, test_witness_SequencerDeviceInv, by decide⟩

/-! #### Whole operations -/

/-- A bus that answers n phases with an acknowledge, the turns ts scripted. -/
def scripted (m : DeviceMode) (p : Phase) (ts : List Agent) (n : Nat) : State :=
  { inPhase m p with turns := ts, answers := List.replicate n yes }

theorem test_witness_WriteByteOnAnAcknowledgingBusSucceeds : ∀ m ∈ [DeviceMode.oracle, .ref],
    (scripted m .idle writeTurns 4).canCommand ∧ (scripted m .idle writeTurns 4).phase = .idle ∧
    Memory.wf (scripted m .idle writeTurns 4).dev.mem = true ∧ (scripted m .idle writeTurns 4).turns = writeTurns ++ [] ∧
    (scripted m .idle writeTurns 4).answers = [yes, yes, yes, yes] ++ [] ∧ cleanAnswer yes := by decide

theorem test_witness_ReadByteOnAnAcknowledgingBusSucceeds : ∀ m ∈ [DeviceMode.oracle, .ref],
    (scripted m .idle readTurns 6).canCommand ∧ (scripted m .idle readTurns 6).phase = .idle ∧
    (scripted m .idle readTurns 6).turns = readTurns ++ [] ∧
    (scripted m .idle readTurns 6).answers = [yes, yes, yes, yes, yes, yes] ++ [] ∧ cleanAnswer yes := by decide

theorem test_witness_WriteThenReadRoundTrips :
    (scripted .ref .idle (writeTurns ++ readTurns) 10).canCommand ∧
    (scripted .ref .idle (writeTurns ++ readTurns) 10).cfg.mode = .ref ∧
    Memory.wf (scripted .ref .idle (writeTurns ++ readTurns) 10).dev.mem = true ∧
    (scripted .ref .idle (writeTurns ++ readTurns) 10).turns = writeTurns ++ (readTurns ++ []) ∧
    (scripted .ref .idle (writeTurns ++ readTurns) 10).answers = List.replicate 10 yes ++ [] ∧
    (List.replicate 10 yes).length = 10 ∧ (∀ x ∈ List.replicate 10 yes, cleanAnswer x) ∧
    effective 0xF810#16 = effective 0x0010#16 ∧ effective 0x0011#16 ≠ effective 0x0010#16 := by decide

theorem test_witness_UnacknowledgedControlByteAborts :
    (scripted .ref .idle (primTurns ++ primTurns ++ [.sequencer]) 0).canCommand ∧
    ({ scripted .ref .idle (primTurns ++ primTurns ++ [.sequencer]) 0 with answers := [yes, no] } : State).answers =
      [yes, no] ++ [] ∧ cleanAnswer yes ∧ no.berr = false ∧ no.ack = .nack := by decide

theorem test_witness_OperationOnAnOwnedBusFails : ∀ p ∈ [Phase.addr, .mt, .hold],
    (scripted .ref p (primTurns ++ [.sequencer]) 1).canCommand ∧ (scripted .ref p (primTurns ++ [.sequencer]) 1).phase = p ∧
    (scripted .ref p (primTurns ++ [.sequencer]) 1).turns = primTurns ++ [.sequencer] ++ [] ∧
    (scripted .ref p (primTurns ++ [.sequencer]) 1).answers = [yes] ∧ yes.berr = false := by decide

theorem test_witness_NonStrictArraysDelayOncePerElement :
    MachineInv holeStart ∧ holeStart.cfg.strictArray = false ∧
    holeStart.seqOp = some (.writeArray 0x0020#16 0x02#8) ∧ isArrayOp (.writeArray 0x0020#16 0x02#8) = true ∧
    (nextOf (step holeStart)).isSome = true := ⟨test_witness_MachineInv_holeStart, rfl, rfl, rfl, by decide⟩

/-! #### The whole machine -/

theorem test_witness_StepIsTheTurnOfTheNamedAgent : ∀ g ∈ [Agent.host, .sequencer, .bus],
    ({ State.reset with turns := [g] } : State).live ∧ ({ State.reset with turns := [g] } : State).turns = g :: [] ∧
    State.reset.host = [] ∧ State.reset.seqOp = none ∧ State.reset.busy = false := by decide

theorem test_witness_StepRunsTheDecodedInstruction :
    (State.reset.offer (.command 0x02000000#32)).live ∧ (State.reset.offer (.command 0x02000000#32)).turns = .host :: [] ∧
    (State.reset.offer (.command 0x02000000#32)).host = .xfer (.command 0x02000000#32) :: [] ∧
    decodeTableWord 32 0x02000000 = some .start := by decide

/-- A host that waits for READY. -/
def waiting (ready : Bool) : State :=
  { inPhase .oracle .addr with ready := ready, host := [.wait 0x003#9 1#32], turns := [.host] }

/-- A host that waits for the sequencer, or on a port that faults. -/
def waitingOn (p : Port) (op : Option SeqCmd) : State :=
  { enabled .oracle with seqReady := op.isNone, seqOp := op, host := [.wait p 1#32], turns := [.host] }

theorem test_witness_WaitHoldsUntilTheValueIsRead :
    (∀ r ∈ [false, true], (waiting r).live ∧ (waiting r).host = .wait 0x003#9 1#32 :: [] ∧ (waiting r).ready = r) ∧
    (∀ op ∈ [none, some (SeqCmd.readByte 0x0305#16)], (waitingOn 0x008#9 op).live ∧
      (waitingOn 0x008#9 op).host = .wait 0x008#9 1#32 :: [] ∧ (waitingOn 0x008#9 op).seqReady = op.isNone) ∧
    (waitingOn 0x009#9 none).live ∧
    (nextOf (perform (.portRead 0x009#9) (waitingOn 0x009#9 none))).map (fun t => t.faulted.isSome) = some true := by decide

theorem test_witness_WaitOnReadyAfterStopNeverEnds :
    (waiting false).live ∧ (waiting false).ready = false ∧ (waiting false).busy = false ∧ (waiting false).seqOp = none ∧
    (waiting false).host = .wait 0x003#9 1#32 :: [] ∧ (nextOf (step (waiting false))).isSome = true := by decide

theorem test_witness_FaultedMachineHasNoStep :
    (State.reset.faultedBy (.portUnmapped (.port 0x00B#9))).faulted = some (.fault (.portUnmapped (.port 0x00B#9))) ∧
    (State.reset.raise (.refusal .configUnmodelled)).faulted = some (.refusal .configUnmodelled) := ⟨rfl, rfl⟩

/-- The default status table with two equal codes, or with a low bit set. -/
def badTable (b : Byte) : State :=
  State.launch { resetConfig with sc := { StatusTable.default with start := b } } []

theorem test_witness_BadStatusTableIsRefused :
    (badTable 0x09#8).faulted = none ∧ (badTable 0x09#8).cfg.sc.code .start &&& 0x07#8 ≠ 0#8 ∧
    StatusName.start ≠ .repeatedStart ∧ (badTable 0x10#8).cfg.sc.code .start = (badTable 0x10#8).cfg.sc.code .repeatedStart := by
  decide

theorem test_witness_FaultsArePrecise : (nextOf (exec .start State.reset)).map (fun t => t.faulted.isSome) = some true := by
  decide

theorem test_witness_BusConfigurationIsSetOnce :
    (nextOf (step (State.reset.withFetchWord 32 0x01000201))).map (fun t => t.en) = some true ∧
    (nextOf (step ((enabled .oracle).withFetchWord 32 0x02000000))).map (fun t => t.en) = some true ∧
    (nextOf (step atReset)).map (fun t => t.en) = some false := by decide

theorem test_witness_TraceOnlyGrows :
    (nextOf (step (pending .oracle .idle .start yes))).map (fun t => t.trace.length) = some 1 := by decide

theorem test_witness_MemoryChangesOnlyAtAStop :
    (nextOf (step (fullWrite.withFetchWord 32 0x03000000))).map (fun t => decide (t.dev.mem ≠ fullWrite.dev.mem)) =
    some true := by decide

theorem test_witness_OnlyReadByteWritesRdata :
    (nextOf (step (written.withFetchWord 32 0x11030500))).map (fun t => t.rdata) = some none ∧
    (nextOf (step { running (.readByte 0x0305#16) .rb8 with seqRd := some 0x42#8 })).map (fun t => t.rdata) =
      some (some 0x42#8) := by decide

theorem test_witness_HostOnlyReadsWhileTheSequencerRuns :
    busySeq.seqReady = false ∧
    (nextOf (hostTurn { busySeq with host := [.xfer (.portRead 0x008#9)] })).map (fun t => t.hostReads) =
      some [(0x008#9, 0#32)] := by decide

theorem test_witness_ReadyRisesOnlyAtACompletion :
    (pending .oracle .idle .start yes).ready = false ∧
    (nextOf (step (pending .oracle .idle .start yes))).map (fun t => t.ready) = some true := by decide

end Sys2Proof.Tests
end

section
/-! Proofs for the statements of spec/10_state.md: the engine's registers.

`EngineMove` says once what a step can do to the engine's registers, SEQ_READY and TRACE (R17 to R20, R26, R32), whatever
agent takes it. The statements about these registers follow from `step_engineMove` by a case split over it. -/

namespace Sys2Proof.Machine

/-! ### What an issued engine command does (R84 to R89) -/

/-- The state after an engine command's issue, with the checks of R80 the issue passed. -/
inductive IssueEffect (s : State) : State → Prop where
  | init (d o : Byte) (he : s.en = false) : IssueEffect s (s.initEngine d o)
  | stop (dev : Device) (he : s.en = true) (hb : s.busy = false) : IssueEffect s { s.stopEngine with dev := dev }
  | phase (c : Pending) (x : Option Byte) (he : s.en = true) (hb : s.busy = false) (hc : legalIn c.cmd s.phase = true) :
      IssueEffect s ({ s with data := x }.beginPhase c)

theorem IssueEffect.of_pending {c : Pending} {x : Option Byte} {s : State} (hf : issueFault c.cmd s = none) :
    IssueEffect s ({ s with data := x }.beginPhase c) := by
  obtain ⟨he, hb, hc⟩ := (issueFault_none (by cases c <;> simp [Pending.cmd])).mp hf
  exact .phase c x he hb hc

theorem issue_effect {c : EngineCmd} {s t : State} (h : issue c s = .ok t) : IssueEffect s t := by
  obtain ⟨hf, he⟩ := issue_ok h
  cases c with
  | init d o =>
    cases he
    exact .init d o (issueFault_init_none.mp hf)
  | stop =>
    obtain ⟨hen, hb, _⟩ := (issueFault_none (by simp)).mp hf
    obtain ⟨dev, rfl, _⟩ := remoteStop_ok he
    exact .stop dev hen hb
  | start =>
    cases he
    exact .of_pending (c := .start) (x := s.data) hf
  | write b =>
    cases he
    exact .of_pending (c := .write b) hf
  | readAck =>
    cases he
    exact .of_pending (c := .readAck) hf
  | readNack =>
    cases he
    exact .of_pending (c := .readNack) hf

/-! ### A completion emits one event (R32, R82) -/

theorem busError_trace (s : State) : s.busError.trace = s.trace ++ [.berr] := by simp [State.busError]

theorem completeStart_trace (s : State) : ∃ e, (completeStart s).2.trace = s.trace ++ [e] := by
  unfold completeStart
  split
  · exact ⟨.s, by simp⟩
  · exact ⟨.sr, by simp⟩

theorem completeWrite_trace {b : Byte} {a : BusAnswer} {s u : State} {n : StatusName}
    (h : completeWrite b a s = .ok (n, u)) : ∃ e, u.trace = s.trace ++ [e] := by
  unfold completeWrite at h
  split at h
  · cases h
  · rename_i k v hk
    obtain ⟨d, rfl, -⟩ := remoteAnswer_ok hk
    cases h
    exact ⟨.tx b k, rfl⟩

theorem completeRead_trace {c : Pending} {k : AckBit} {m n : StatusName} {ph : Phase} {a : BusAnswer} {s u : State}
    (h : completeRead c k m ph a s = .ok (n, u)) : ∃ e, u.trace = s.trace ++ [e] := by
  unfold completeRead at h
  split at h
  · cases h
  · rename_i v w hv
    obtain ⟨d, rfl, -⟩ := remoteByte_ok hv
    cases h
    exact ⟨.rx v k, rfl⟩

theorem completion_trace {c : Pending} {a : BusAnswer} {s u : State} {n : StatusName}
    (h : completion c a s = .ok (n, u)) : ∃ e, u.trace = s.trace ++ [e] := by
  unfold completion at h
  split at h
  · cases h
    exact ⟨.berr, busError_trace s⟩
  · cases c with
    | start =>
      have hu : (completeStart s).2 = u := congrArg Prod.snd (Except.ok.inj h)
      exact hu ▸ completeStart_trace s
    | write b => exact completeWrite_trace h
    | readAck => exact completeRead_trace h
    | readNack => exact completeRead_trace h

/-! ### What a step does to the engine's registers -/

/-- The engine's registers but DATA, with the parameters, SEQ_READY and TRACE. -/
structure EngineRegs where
  cfg : Config
  en : Bool
  div : Byte
  ownaddr : Byte
  ready : Bool
  statusRaw : Option Byte
  phase : Phase
  busy : Bool
  pend : Option Pending
  seqReady : Bool
  trace : List BusEvent

/-- Those registers of s. -/
def State.engineRegs (s : State) : EngineRegs :=
  ⟨s.cfg, s.en, s.div, s.ownaddr, s.ready, s.statusRaw, s.phase, s.busy, s.pend, s.seqReady, s.trace⟩

@[simp] theorem State.engineRegs_useTurn (s : State) : s.useTurn.engineRegs = s.engineRegs := by
  simp [State.engineRegs]

/-- What a step of agent g can do to the engine's registers r. -/
inductive EngineMove (g : Agent) (r : EngineRegs) : EngineRegs → Prop where
  | kept : EngineMove g r r
  /-- R103: the settle delay. -/
  | delay : EngineMove g r { r with trace := r.trace ++ [.delay] }
  /-- R94: the host issues a sequencer command. -/
  | opIssued (he : r.en = true) : EngineMove g r { r with seqReady := false }
  /-- R96: the running operation goes on or ends. -/
  | opRuns (hr : r.seqReady = false) (b : Bool) : EngineMove g r { r with seqReady := b }
  /-- R84. -/
  | init (d o : Byte) (he : r.en = false) :
      EngineMove g r { r with div := d, ownaddr := o, en := true, phase := .idle, statusRaw := none }
  /-- R86. -/
  | stop (he : r.en = true) (hb : r.busy = false) :
      EngineMove g r { r with trace := r.trace ++ [.p], phase := .idle, ready := false, statusRaw := none }
  /-- R85, R87 to R89: a phase is started. -/
  | begun (c : Pending) (he : r.en = true) (hb : r.busy = false) (hc : legalIn c.cmd r.phase = true) :
      EngineMove g r { r with busy := true, pend := some c, ready := false, statusRaw := none }
  /-- R82, R83: the bus environment completes the pending phase. -/
  | completed (hg : g = .bus) (hl : r.cfg.sc.legal = true) (c : Pending) (hp : r.pend = some c) (hb : r.busy = true)
      (n : StatusName) (low : BitVec 3) (ph : Phase) (e : BusEvent) :
      EngineMove g r { r with trace := r.trace ++ [e], phase := ph, busy := false, pend := none, ready := true,
                              statusRaw := some (r.cfg.sc.code n ||| low.setWidth 8) }

theorem IssueEffect.engineMove {g : Agent} {s t : State} (h : IssueEffect s t) :
    EngineMove g s.engineRegs t.engineRegs := by
  cases h with
  | init d o he => exact .init d o he
  | stop dev he hb => exact .stop he hb
  | phase c x he hb hc => exact .begun c he hb hc

theorem HostEffect.engineMove {g : Agent} {s t : State} (h : HostEffect s t) :
    EngineMove g s.engineRegs t.engineRegs := by
  cases h with
  | raised e => exact .kept
  | read p v => exact .kept
  | issued c _ hl hr h => exact (issue_effect h).engineMove
  | seqIssued c _ hl hr h =>
    obtain ⟨he, _, rfl⟩ := seqIssue_ok h
    cases c <;> exact .opIssued he
  | buf i v hl hr => exact .kept

theorem SeqEffect.engineMove {g : Agent} {s t : State} (h : SeqEffect s t) (hr : s.seqReady = false) :
    EngineMove g s.engineRegs t.engineRegs := by
  cases h with
  | issued c u h b l => exact (issue_effect h).engineMove (t := u)
  | own ready => exact .opRuns hr ready
  | delay l => exact .delay

/-- R82: the completion of the pending phase, as a move of the bus environment. -/
theorem complete_engineMove {c : Pending} {s t : State} (hl : s.live) (hp : s.pend = some c) (hb : s.busy = true)
    (h : complete c s = .ok t) : EngineMove .bus s.engineRegs t.engineRegs := by
  obtain ⟨n, u, hu, rfl⟩ := complete_ok h
  obtain ⟨e, he⟩ := completion_trace hu
  obtain ⟨d, x, ph, tr, rfl⟩ := completion_ok hu
  have htr : tr = s.trace ++ [e] := by simpa using he
  have hregs : State.engineRegs (State.finishPhase n s.nextAnswer.low
      { s.useAnswer with dev := d, data := x, phase := ph, trace := tr }) =
      { s.engineRegs with trace := s.trace ++ [e], phase := ph, busy := false, pend := none, ready := true,
                          statusRaw := some (s.cfg.sc.code n ||| s.nextAnswer.low.setWidth 8) } := by
    simp [State.engineRegs, htr]
  exact hregs ▸ .completed rfl hl.2 c hp hb n _ ph e

/-- What a step can do to the engine's registers. -/
theorem step_engineMove {s t : State} (h : step s = .next t) : EngineMove s.nextAgent s.engineRegs t.engineRegs := by
  rw [← s.engineRegs_useTurn]
  cases (step_effect h).2 with
  | config => exact s.engineRegs_useTurn ▸ .kept
  | pass hl lines => exact .kept
  | host hl hg before after u hu => exact hu.engineMove
  | sequencer hl hg op ho hr _ hu => exact (seqStep_effect hu).engineMove (by simpa using hr)
  | bus hl hg c hp hb _ hu =>
    exact hg ▸ complete_engineMove (useTurn_live hl) (by simpa using hp) (by simpa using hb) hu
  | raised hl e => exact .kept

/-! ### The engine's invariant (R20, R21, R26, R126) -/

/-- EngineInv is about the engine's registers alone. -/
theorem EngineInv.congr {s t : State} (hi : EngineInv s) (h : t.engineRegs = s.engineRegs) : EngineInv t := by
  simp only [State.engineRegs, EngineRegs.mk.injEq] at h
  obtain ⟨hcfg, hen, -, -, hready, hraw, hphase, hbusy, hpend, hseq, -⟩ := h
  obtain ⟨h1, h2, h3, h4, h5, h6⟩ := hi
  constructor <;> simpa only [hcfg, hen, hready, hraw, hphase, hbusy, hpend, hseq]

theorem EngineInv.pend_none {s : State} (hi : EngineInv s) (hb : s.busy = false) : s.pend = none := by
  simpa [hb] using hi.busyPend

theorem EngineInv.en_of_busy {s : State} (hi : EngineInv s) (hb : s.busy = true) : s.en = true := by
  by_contra he
  obtain ⟨_, hidle, _, _⟩ := hi.beforeInit (by simpa using he)
  simp [hb] at hidle

theorem EngineInv.en_of_op {s : State} (hi : EngineInv s) (hr : s.seqReady = false) : s.en = true := by
  by_contra he
  obtain ⟨_, _, _, hready⟩ := hi.beforeInit (by simpa using he)
  simp [hr] at hready

theorem EngineInv.emit {s : State} (hi : EngineInv s) (e : BusEvent) : EngineInv (s.emit e) := by
  obtain ⟨h1, h2, h3, h4, h5, h6⟩ := hi
  exact ⟨h1, h2, h3, h4, h5, h6⟩

/-- R94, R96: once INIT was done the invariant says nothing of SEQ_READY. -/
theorem EngineInv.seqReady {s : State} (hi : EngineInv s) (he : s.en = true) (b : Bool) :
    EngineInv { s with seqReady := b } := by
  obtain ⟨h1, h2, h3, h4, h5, _⟩ := hi
  exact ⟨h1, h2, h3, h4, h5, by simp [he]⟩

/-- R84. Before INIT nothing has started, so there is no phase in flight that the reset of PHASE could leave illegal. -/
theorem EngineInv.initEngine {s : State} (hi : EngineInv s) (d o : Byte) (he : s.en = false) :
    EngineInv (s.initEngine d o) := by
  obtain ⟨hready, hbusy, _, _⟩ := hi.beforeInit he
  constructor <;> simp [hready, hbusy, hi.pend_none hbusy]

/-- R86. -/
theorem EngineInv.stopEngine {s : State} (hi : EngineInv s) (he : s.en = true) (hb : s.busy = false) :
    EngineInv s.stopEngine := by
  constructor <;> simp [he, hb, hi.pend_none hb]

/-- R85, R87 to R89. -/
theorem EngineInv.of_beginPhase {s : State} (c : Pending) (he : s.en = true) (hc : legalIn c.cmd s.phase = true) :
    EngineInv (s.beginPhase c) := by
  constructor <;> simp [he, hc]

/-- R82: the status set masks to its code (R74), and BUSY = 1 before the completion says that INIT was done. -/
theorem EngineInv.of_finishPhase {s : State} (hl : s.cfg.sc.legal = true) (he : s.en = true) (n : StatusName)
    (low : BitVec 3) : EngineInv (s.finishPhase n low) := by
  constructor <;> simp [he, maskStatus_code hl]

/-- Settles O10: every move of the engine's registers keeps EngineInv. -/
theorem everyStepKeepsTheEngineInvariant : Obligations.EveryStepKeepsTheEngineInvariant := by
  intro s t hi h
  have hm := step_engineMove h
  generalize ht : t.engineRegs = r at hm
  cases hm with
  | kept => exact hi.congr ht
  | delay => exact (hi.emit .delay).congr ht
  | opIssued he => exact (hi.seqReady he false).congr ht
  | opRuns hr b => exact (hi.seqReady (hi.en_of_op hr) b).congr ht
  | init d o he => exact (hi.initEngine d o he).congr ht
  | stop he hb => exact (hi.stopEngine he hb).congr ht
  | begun c he hb hc => exact (EngineInv.of_beginPhase c he hc).congr ht
  | completed hg hl c hp hb n low ph e =>
    exact (EngineInv.of_finishPhase (s := { s.emit e with phase := ph }) hl (hi.en_of_busy hb) n low).congr ht

/-! ### The bus configuration (R17 to R19), TRACE (R32) and READY (R20) -/

/-- R17 to R19, R38. -/
theorem EngineMove.config {g : Agent} {r q : EngineRegs} (h : EngineMove g r q) :
    q.cfg = r.cfg ∧ (r.en = true → q.en = true ∧ q.div = r.div ∧ q.ownaddr = r.ownaddr) ∧
    (r.en = false → q.en = false → q.div = r.div ∧ q.ownaddr = r.ownaddr) := by
  cases h with
  | init d o he => simp [he]
  | _ => exact ⟨rfl, fun he => ⟨he, rfl, rfl⟩, fun _ _ => ⟨rfl, rfl⟩⟩

/-- R32. -/
theorem EngineMove.trace {g : Agent} {r q : EngineRegs} (h : EngineMove g r q) :
    q.trace = r.trace ∨ ∃ e, q.trace = r.trace ++ [e] := by
  cases h with
  | delay => exact .inr ⟨.delay, rfl⟩
  | stop => exact .inr ⟨.p, rfl⟩
  | completed _ _ _ _ _ _ _ _ e => exact .inr ⟨e, rfl⟩
  | _ => exact .inl rfl

/-- R20: only a completion sets READY. -/
theorem EngineMove.ready {g : Agent} {r q : EngineRegs} (h : EngineMove g r q) (hr : r.ready = false)
    (hq : q.ready = true) : g = .bus ∧ r.busy = true ∧ r.pend.isSome = true ∧ q.busy = false ∧ q.pend = none ∧
      q.statusRaw.isSome = true := by
  cases h with
  | completed hg _ c hp hb => exact ⟨hg, hb, by simp [hp], rfl, rfl, rfl⟩
  | stop | begun => cases hq
  | _ => exact absurd hq (by simp [hr])

/-- Settles O55: only INIT's move changes DIV and OWNADDR, and it needs EN = 0 and sets EN. -/
theorem busConfigurationIsSetOnce : Obligations.BusConfigurationIsSetOnce :=
  fun _ _ h => (step_engineMove h).config

/-- Settles O56: only the settle delay, STOP and a completion emit, one event each. -/
theorem traceOnlyGrows : Obligations.TraceOnlyGrows :=
  fun _ _ h => (step_engineMove h).trace

/-- Settles O60: only a completion's move sets READY. -/
theorem readyRisesOnlyAtACompletion : Obligations.ReadyRisesOnlyAtACompletion :=
  fun _ _ h => (step_engineMove h).ready

end Sys2Proof.Machine
end

section
/-! Proofs for the statements of spec/10_state.md: port reads (R35), writes of CMD (R34), and RDATA (R29). -/

namespace Sys2Proof.Machine

/-! ### Port reads (R35) -/

/-- R90, R91: every port read is a read of some port, whose value the state gives. -/
theorem exec_portRead {i : Instr} (hi : isPortRead i = true) (s : State) :
    ∃ p v, exec i s = act (portRead p v) s := by
  cases i with
  | init | start | stop | write | readAck | readNack => cases hi
  | eeWriteByte | eeReadByte | eeWriteArray | eeReadArray => cases hi
  | pwCmd | pwBuf => cases hi
  | _ => exact ⟨_, _, rfl⟩

theorem portRead_frame {p : Port} {v : Option Word} {s t : State} (h : act (portRead p v) s = .next t) :
    t = { s with hostReads := t.hostReads, faulted := t.faulted } := by
  obtain ⟨_, ⟨_, h⟩ | ⟨e, rfl⟩⟩ := act_next h
  · obtain ⟨x, _, hx⟩ := needed_ok h
    cases hx
    rfl
  · rfl

/-- Settles O28: a port read delivers a value or raises a fault. -/
theorem portReadsChangeNothing : Obligations.PortReadsChangeNothing := by
  intro i s t hi h
  obtain ⟨p, v, he⟩ := exec_portRead hi s
  exact portRead_frame (he ▸ h)

/-! ### Writes of CMD (R34) -/

/-- R77: a command's own instruction is the host's write of that command. -/
theorem exec_toInstr (c : Command) (s : State) : exec c.toInstr s = act (hostCommand c) s := by
  cases c with
  | engine c => cases c <;> rfl
  | sequencer c => cases c <;> rfl

theorem writeCmd_of_readCommand {w : Word} {c : Command} (h : readCommand w = .ok c) : writeCmd w = hostCommand c := by
  funext s
  simp [writeCmd, h]

theorem exec_pwCmd {w : Word} {c : Command} (h : readCommand w = .ok c) (s : State) :
    exec (.pwCmd w) s = exec c.toInstr s := by
  rw [exec_toInstr, ← writeCmd_of_readCommand h]
  rfl

theorem exec_pwCmd_encodeCommand (c : Command) (s : State) : exec (.pwCmd (encodeCommand c)) s = exec c.toInstr s :=
  exec_pwCmd (readCommand_encodeCommand c) s

theorem decodeCommand_ok {w : Word} {i : Instr} (h : decodeCommand w = .ok i) :
    ∃ c, readCommand w = .ok c ∧ i = c.toInstr := by
  unfold decodeCommand at h
  split at h
  · rename_i c hc
    exact ⟨c, hc, (Except.ok.inj h).symm⟩
  · cases h

/-- Settles O31: a word that decodes reads as a command, and PW_CMD issues that command. -/
theorem cmdWriteIssuesItsCommand : Obligations.CmdWriteIssuesItsCommand := by
  intro w i s h
  obtain ⟨c, hc, rfl⟩ := decodeCommand_ok h
  exact exec_pwCmd hc s

/-- R80, R92: PW_CMD of an engine command that passes the checks has the command's issue as its effect. -/
theorem pwCmd_engine {c : EngineCmd} {s t : State} (hl : s.live) (hr : s.seqReady = true)
    (hf : issueFault c s = none) (he : issueEffect c s = .ok t) : exec (.pwCmd (encodeEngine c)) s = .next t := by
  have hi : hostIssue c s = .ok t := by
    rw [hostIssue, hostMayWrite_ready hr, issue, hf]
    exact he
  exact (exec_pwCmd_encodeCommand (.engine c) s).trans ((exec_toInstr _ _).trans (act_ok hl hi))

/-- R94, R92: the same for a sequencer command. -/
theorem pwCmd_sequencer {c : SeqCmd} {s : State} (hl : s.live) (hr : s.seqReady = true) (he : s.en = true)
    (hb : s.busy = false) : exec (.pwCmd (encodeSeq c)) s = .next ((s.beginOp c).loadOp c) := by
  have hi : hostSeqIssue c s = .ok ((s.beginOp c).loadOp c) := by
    rw [hostSeqIssue, hostMayWrite_ready hr]
    simp [seqIssue, seqFault, he, hb]
  exact (exec_pwCmd_encodeCommand (.sequencer c) s).trans ((exec_toInstr _ _).trans (act_ok hl hi))

theorem legalIn_start {ph : Phase} (h : ph ≠ .mr) : legalIn .start ph = true := by
  cases ph with
  | mr => exact absurd rfl h
  | _ => rfl

theorem legalIn_write {b : Byte} {ph : Phase} (h : ph = .addr ∨ ph = .mt) : legalIn (.write b) ph = true := by
  obtain rfl | rfl := h <;> rfl

/-- Settles O32: each word encodes a command whose checks the hypotheses pass. -/
theorem cmdWriteCompletes : Obligations.CmdWriteCompletes := by
  intro s hl hr
  refine ⟨fun he d o => ?_, fun he hb hp => ?_, fun he hb hp b => ?_, fun he hb a d => ?_⟩
  · exact pwCmd_engine (c := .init d o) hl hr (issueFault_init_none.mpr he) rfl
  · exact pwCmd_engine (c := .start) hl hr ((issueFault_none (by simp)).mpr ⟨he, hb, legalIn_start hp⟩) rfl
  · exact pwCmd_engine (c := .write b) hl hr ((issueFault_none (by simp)).mpr ⟨he, hb, legalIn_write hp⟩) rfl
  · exact pwCmd_sequencer (c := .writeByte a d) hl hr he hb

/-! ### RDATA (R29) -/

theorem issue_rdata {c : EngineCmd} {s t : State} (h : issue c s = .ok t) : t.rdata = s.rdata := by
  cases issue_effect h <;> rfl

theorem prim_rdata {c : EngineCmd} {n : StatusName} {pass : State → State} {s t : State} (h : prim c n pass s = .ok t)
    (hp : ∀ u, (pass u).rdata = u.rdata) : t.rdata = s.rdata := by
  rcases prim_ok h with ⟨_, u, hu, rfl⟩ | ⟨_, _, rfl⟩ | ⟨_, _, raw, _, ⟨_, rfl⟩ | ⟨_, rfl⟩⟩
  · exact issue_rdata (t := u) hu
  · rfl
  · exact hp _
  · rfl

theorem primStop_rdata {l : SeqPc} {s t : State} (h : primStop l s = .ok t) : t.rdata = s.rdata := by
  unfold primStop at h
  split at h
  · cases h
  · rename_i u hu
    cases h
    exact issue_rdata (t := u) hu

theorem writeLoopHead_rdata {op : SeqCmd} {s t : State} (h : writeLoopHead op s = .ok t) : t.rdata = s.rdata := by
  obtain ⟨i, _, h⟩ := needed_ok h
  obtain ⟨n, _, h⟩ := needed_ok h
  split at h
  · cases h
    rfl
  · split at h
    · cases h
    · obtain ⟨b, _, h⟩ := needed_ok h
      obtain ⟨base, _, h⟩ := needed_ok h
      cases h
      rfl

theorem readLoopHead_rdata {op : SeqCmd} {s t : State} (h : readLoopHead op s = .ok t) : t.rdata = s.rdata := by
  obtain ⟨i, _, h⟩ := needed_ok h
  obtain ⟨n, _, h⟩ := needed_ok h
  split at h
  · cases h
    rfl
  · obtain ⟨base, _, h⟩ := needed_ok h
    cases h
    rfl

theorem loopNext_rdata {op : SeqCmd} {l : SeqPc} {s t : State} (h : loopNext op l s = .ok t) : t.rdata = s.rdata := by
  unfold loopNext at h
  split at h
  · cases h
    rfl
  · obtain ⟨i, _, h⟩ := needed_ok h
    cases h
    rfl

theorem storeElement_rdata {c : Cause} {r : Result} {i : BitVec 9} {s t : State} (h : storeElement c r i s = .ok t) :
    t.rdata = s.rdata := by
  unfold storeElement at h
  split at h
  · cases h
    rfl
  · cases h

/-- RDATA is kept, or the operation op is EE_READ_BYTE and ends in Success. -/
def RdataMove (op : SeqCmd) (s t : State) : Prop :=
  t.rdata = s.rdata ∨
  (∃ a, op = .readByte a) ∧ t.seqOp = none ∧ t.result = some .success ∧ t.rdata = s.seqRd

/-- R96: the one end of a micro-program that writes RDATA. -/
theorem finishByte_rdata {op : SeqCmd} {r : Result} {s t : State} (h : finishByte op r s = .ok t) : RdataMove op s t := by
  cases op with
  | writeByte a d => cases h; exact .inl rfl
  | readByte a =>
    cases h
    cases r with
    | success => exact .inr ⟨⟨a, rfl⟩, rfl, rfl, rfl⟩
    | error => exact .inl rfl
  | writeArray a n => cases h; exact .inl rfl
  | readArray a n =>
    obtain ⟨i, _, h⟩ := needed_ok h
    split at h
    · cases h
    · rename_i u hu
      cases h
      exact .inl (storeElement_rdata (t := u) hu)

theorem seqStep_rdata {op : SeqCmd} {s t : State} (h : seqStep op s = .ok t) : RdataMove op s t := by
  unfold seqStep at h
  cases hpc : s.seqPc <;> simp only [hpc] at h
  case wb6 | rb8 | err => exact finishByte_rdata h
  case wb1 | rb1 | rb4 | rb6 => exact .inl (prim_rdata h fun _ => rfl)
  case wb2 | wb3 | wb4 | rb2 | rb3 | rb5 =>
    obtain ⟨x, _, h⟩ := needed_ok h
    exact .inl (prim_rdata h fun _ => rfl)
  case wb5 | rb7 => exact .inl (primStop_rdata h)
  case wa1 => exact .inl (writeLoopHead_rdata h)
  case ra1 => exact .inl (readLoopHead_rdata h)
  case wa3 | ra3 => exact .inl (loopNext_rdata h)
  case idle | wa2 | ra2 | wa4 | ra4 | seqEnd => cases h; exact .inl rfl

theorem HostEffect.rdata {s t : State} (h : HostEffect s t) :
    t.rdata = s.rdata ∨ t.rdata = none ∧ ∃ a, t.seqOp = some (.readByte a) := by
  cases h with
  | raised e => exact .inl rfl
  | read p v => exact .inl rfl
  | issued c _ hl hr h => exact .inl (issue_rdata h)
  | seqIssued c _ hl hr h =>
    obtain ⟨_, _, rfl⟩ := seqIssue_ok h
    cases c with
    | readByte a => exact .inr ⟨rfl, a, rfl⟩
    | _ => exact .inl rfl
  | buf i v hl hr => exact .inl rfl

theorem complete_rdata {c : Pending} {s t : State} (h : complete c s = .ok t) : t.rdata = s.rdata := by
  obtain ⟨n, u, hu, rfl⟩ := complete_ok h
  obtain ⟨d, x, ph, tr, rfl⟩ := completion_ok hu
  exact State.useAnswer_rdata s

/-- Settles O58: only the issue of EE_READ_BYTE and its end in Success write RDATA. -/
theorem onlyReadByteWritesRdata : Obligations.OnlyReadByteWritesRdata := by
  intro s t h hne
  cases (step_effect h).2 with
  | config => exact absurd rfl hne
  | pass hl lines => exact absurd s.useTurn_rdata hne
  | host hl hg before after u hu =>
    exact .inl (hu.rdata.resolve_left fun he => hne (he.trans s.useTurn_rdata))
  | sequencer hl hg op ho hr _ hu =>
    obtain ⟨⟨a, rfl⟩, hop, hres, hrd⟩ := (seqStep_rdata hu).resolve_left fun he => hne (he.trans s.useTurn_rdata)
    exact .inr ⟨⟨a, ho⟩, hop, hres, hrd.trans s.useTurn_seqRd⟩
  | bus hl hg c hp hb _ hu => exact absurd ((complete_rdata hu).trans s.useTurn_rdata) hne
  | raised hl e => exact absurd s.useTurn_rdata hne

end Sys2Proof.Machine
end

section
/-! Proofs for the statements of spec/20_memory.md: the bus bytes of a logical address (R42 to R44, R71). -/

namespace Sys2Proof.Machine

/-- R43: the shifted part of a control byte is the block bits a[10:8], one bit up. -/
theorem shiftedBlock_eq (a : LAddr) : (a &&& 0x0700#16) >>> 7 = (a.extractLsb' 8 3).setWidth 16 <<< 1 := by
  ext i hi
  interval_cases i <;> simp

/-- R43: the fields of a control byte. -/
theorem controlByte_eq (a : LAddr) (rw : Direction) :
    controlByte a rw = 0b1010#4 ++ a.extractLsb' 8 3 ++ rw.bit.extractLsb' 0 1 := by
  rw [controlByte, shiftedBlock_eq]
  generalize a.extractLsb' 8 3 = x
  cases rw <;> (revert x; decide)

theorem controlByte_device (a : LAddr) (rw : Direction) : (controlByte a rw).extractLsb' 4 4 = 0xA#4 := by
  rw [controlByte_eq]
  generalize a.extractLsb' 8 3 = x
  cases rw <;> (revert x; decide)

theorem controlByte_block (a : LAddr) (rw : Direction) : (controlByte a rw).extractLsb' 1 3 = a.extractLsb' 8 3 := by
  rw [controlByte_eq]
  generalize a.extractLsb' 8 3 = x
  cases rw <;> (revert x; decide)

theorem controlByte_direction (a : LAddr) (rw : Direction) :
    (controlByte a rw).extractLsb' 0 1 = rw.bit.extractLsb' 0 1 := by
  rw [controlByte_eq]
  generalize a.extractLsb' 8 3 = x
  cases rw <;> (revert x; decide)

/-- R42, R71: the effective address is the block bits and the word address byte. -/
theorem effective_eq_append (a : LAddr) : effective a = a.extractLsb' 8 3 ++ wordAddress a := by
  rw [wordAddress, BitVec.extractLsb'_append_extractLsb'_eq_extractLsb' (by rfl)]
  rfl

theorem effective_block (a : LAddr) : (effective a).extractLsb' 8 3 = a.extractLsb' 8 3 := by
  ext i hi
  simp [effective]

theorem effective_word (a : LAddr) : (effective a).extractLsb' 0 8 = wordAddress a := by
  ext i hi
  simp [effective, wordAddress]

/-- R42: two addresses with one effective address have the same block bits and the same word address byte, and only they. -/
theorem effective_eq_iff (a b : LAddr) :
    effective a = effective b ↔ a.extractLsb' 8 3 = b.extractLsb' 8 3 ∧ wordAddress a = wordAddress b := by
  constructor
  · intro h
    exact ⟨by rw [← effective_block, h, effective_block], by rw [← effective_word, h, effective_word]⟩
  · rintro ⟨hb, hw⟩
    rw [effective_eq_append, hb, hw, ← effective_eq_append]

/-- R43: a control byte says the block bits, and nothing else of the address. -/
theorem controlByte_eq_iff (a b : LAddr) (rw : Direction) :
    controlByte a rw = controlByte b rw ↔ a.extractLsb' 8 3 = b.extractLsb' 8 3 := by
  constructor
  · intro h
    rw [← controlByte_block a rw, h, controlByte_block]
  · intro h
    rw [controlByte_eq, h, ← controlByte_eq]

/-- R42: bits 15..11 have no effect. -/
theorem effective_add_mul (a k : LAddr) : effective (a + 0x0800#16 * k) = effective a := by
  apply BitVec.eq_of_toNat_eq
  simp [effective]

/-- Settles O5: the shifted part is the block bits one bit up, which leaves its eight values to look at. -/
theorem controlByteHasItsFields : Obligations.ControlByteHasItsFields := by
  have bounded : ∀ x : BitVec 3, (x.setWidth 16 <<< 1).toNat ≤ 0x0E ∧ (x.setWidth 16 <<< 1) &&& 0x00A1#16 = 0#16 := by
    decide
  exact ⟨fun a => ⟨rfl, rfl, controlByte_eq a .write, controlByte_eq a .read, shiftedBlock_eq a,
    shiftedBlock_eq a ▸ bounded _⟩, by decide⟩

/-- Settles O6: the bus address is the field 0b1010 and the block bits. -/
theorem busAddressIsFiftyToFiftySeven : Obligations.BusAddressIsFiftyToFiftySeven := by
  intro a rw
  rw [busAddress, controlByte_eq]
  generalize a.extractLsb' 8 3 = x
  cases rw <;> (revert x; decide)

/-- Settles O7: the control bytes carry the block bits and the word address byte the rest of the effective address. -/
theorem logicalAddressesAliasAboveBitTen : Obligations.LogicalAddressesAliasAboveBitTen :=
  ⟨fun a b => by simp [effective_eq_iff, controlByte_eq_iff], effective_add_mul⟩

end Sys2Proof.Machine
end

section
/-! Proofs for the statements of spec/20_memory.md: the reference device (R51 to R58).

`RefCompletion` says once what a completed phase does to PHASE and the device in mode REF, and `DeviceMove` what a step does to
them; the device's invariant and the statement about MEM follow by a case split over these. -/

namespace Sys2Proof.Machine

/-! ### The device's answers (R53, R54) -/

theorem bit_eq_one {x : BitVec 1} (h : x ≠ 0#1) : x = 1#1 := by
  revert x
  decide

/-- R53, not acknowledged. -/
theorem control_nack {c : Cause} {b : Byte} {k : AckBit} {d : Device} (h : b.extractLsb' 4 4 ≠ 0xA#4 ∨ k = .nack) :
    d.control c b k = .ok (.nack, { d with wst := .skip }) := by
  unfold Device.control
  split
  · rfl
  · rename_i hb
    rw [h.resolve_left hb]

/-- R53, write mode. -/
theorem control_write {c : Cause} {b : Byte} {d : Device} (hb : b.extractLsb' 4 4 = 0xA#4)
    (hd : b.extractLsb' 0 1 = 0#1) :
    d.control c b .ack = .ok (.ack, { d with wst := .wAddr, blk := some (b.extractLsb' 1 3) }) := by
  simp [Device.control, hb, hd]

/-- R53, read mode. -/
theorem control_read {c : Cause} {b : Byte} {d : Device} {ptr : EAddr} (hb : b.extractLsb' 4 4 = 0xA#4)
    (hd : b.extractLsb' 0 1 = 1#1) (hp : d.ptr = some ptr) (hblk : ptr.extractLsb' 8 3 = b.extractLsb' 1 3) :
    d.control c b .ack = .ok (.ack, { d with wst := .rd }) := by
  simp [Device.control, hb, hd, hp, hblk]

/-- R53, R58: read mode with no pointer into the block. -/
theorem control_unmodelled {c : Cause} {b : Byte} {d : Device} (hb : b.extractLsb' 4 4 = 0xA#4)
    (hd : b.extractLsb' 0 1 = 1#1) (hp : ∀ ptr, d.ptr = some ptr → ptr.extractLsb' 8 3 ≠ b.extractLsb' 1 3) :
    d.control c b .ack = unmodelled c := by
  cases hptr : d.ptr with
  | none => simp [Device.control, hb, hd, hptr]
  | some ptr => simp [Device.control, hb, hd, hptr, hp ptr hptr]

/-- R54, not acknowledged. -/
theorem writeByte_nack {c : Cause} {b : Byte} {d : Device} (h : d.wst = .wAddr ∨ d.wst = .wData) :
    d.writeByte c b .nack = .ok (.nack, { d with wst := .skip }) := by
  obtain h | h := h <;> simp [Device.writeByte, h]

/-- R54, the word address byte. -/
theorem writeByte_wAddr {c : Cause} {b : Byte} {d : Device} {blk : BitVec 3} (h : d.wst = .wAddr)
    (hb : d.blk = some blk) : d.writeByte c b .ack = .ok (.ack, { d with ptr := some (blk ++ b), wst := .wData }) := by
  simp [Device.writeByte, h, hb]

/-- R54, the data byte. -/
theorem writeByte_wData {c : Cause} {b : Byte} {d : Device} (h : d.wst = .wData) :
    d.writeByte c b .ack = .ok (.ack, { d with wpend := some b, wst := .wFull }) := by
  simp [Device.writeByte, h]

/-- R54, R58: a second data byte. -/
theorem writeByte_wFull {c : Cause} {b : Byte} {k : AckBit} {d : Device} (h : d.wst = .wFull) :
    d.writeByte c b k = unmodelled c := by
  simp [Device.writeByte, h]

/-- R57. -/
theorem send_rd {c : Cause} {d : Device} {ptr : EAddr} (h : d.wst = .rd) (hp : d.ptr = some ptr) :
    d.send c = .ok (Memory.read ptr d.mem, { d with ptr := some (ptr + 1#11) }) := by
  simp [Device.send, h, hp]

/-! ### Completions in mode REF (R52 to R57, R82 to R89) -/

/-- The status name, the PHASE and the device after a completed phase, from PHASE ph and device d. -/
inductive RefCompletion (ph : Phase) (d : Device) : Pending → StatusName → Phase → Device → Prop where
  | busError (c : Pending) : RefCompletion ph d c .busError .idle d.abandon
  | start (n : StatusName) : RefCompletion ph d .start n .addr d.abandon
  | nack (b : Byte) : RefCompletion ph d (.write b) (writeStatus ph b .nack) .hold { d with wst := .skip }
  | writeMode (b : Byte) (hp : ph = .addr) (hd : b.extractLsb' 0 1 = 0#1) :
      RefCompletion ph d (.write b) .addressAckW .mt { d with wst := .wAddr, blk := some (b.extractLsb' 1 3) }
  | readMode (b : Byte) (hp : ph = .addr) (hd : b.extractLsb' 0 1 = 1#1) (ptr : EAddr) (hptr : d.ptr = some ptr) :
      RefCompletion ph d (.write b) .addressAckR .mr { d with wst := .rd }
  | word (b : Byte) (hp : ph ≠ .addr) (hw : d.wst = .wAddr) (blk : BitVec 3) (hb : d.blk = some blk) :
      RefCompletion ph d (.write b) .dataAck .mt { d with ptr := some (blk ++ b), wst := .wData }
  | byte (b : Byte) (hp : ph ≠ .addr) (hw : d.wst = .wData) :
      RefCompletion ph d (.write b) .dataAck .mt { d with wpend := some b, wst := .wFull }
  | readAck (hw : d.wst = .rd) (ptr : EAddr) (hptr : d.ptr = some ptr) :
      RefCompletion ph d .readAck .dataRxAck .mr { d with ptr := some (ptr + 1#11) }
  | readNack (hw : d.wst = .rd) (ptr : EAddr) (hptr : d.ptr = some ptr) :
      RefCompletion ph d .readNack .dataNack .hold { d with ptr := some (ptr + 1#11) }

theorem State.remoteAbandon_dev (s : State) :
    s.remoteAbandon.dev = if s.cfg.mode = .ref then s.dev.abandon else s.dev := by
  unfold State.remoteAbandon
  split <;> simp [*]

theorem busError_phase (s : State) : s.busError.phase = .idle := by simp [State.busError]

theorem busError_dev (s : State) : s.busError.dev = if s.cfg.mode = .ref then s.dev.abandon else s.dev := by
  simp [State.busError, State.remoteAbandon_dev]

theorem completeStart_phase (s : State) : (completeStart s).2.phase = .addr := by
  unfold completeStart
  split <;> simp

theorem completeStart_dev (s : State) :
    (completeStart s).2.dev = if s.cfg.mode = .ref then s.dev.abandon else s.dev := by
  unfold completeStart
  split <;> simp [State.remoteAbandon_dev]

/-- R53, R87. -/
theorem control_refCompletion {c : Cause} {b : Byte} {k r : AckBit} {d e : Device} (h : d.control c b k = .ok (r, e)) :
    RefCompletion .addr d (.write b) (writeStatus .addr b r) (writePhase .addr b r) e := by
  unfold Device.control unmodelled at h
  split at h
  · cases h
    exact .nack b
  · split at h
    · cases h
      exact .nack b
    · split at h
      · rename_i hd
        cases h
        simpa [writeStatus, writePhase, hd] using RefCompletion.writeMode b rfl hd
      · rename_i hd
        split at h
        · cases h
        · rename_i ptr hptr
          split at h
          · cases h
          · cases h
            simpa [writeStatus, writePhase, hd] using RefCompletion.readMode b rfl (bit_eq_one hd) ptr hptr

/-- R54, R87. -/
theorem writeByte_refCompletion {c : Cause} {b : Byte} {k r : AckBit} {ph : Phase} {d e : Device} (hp : ph ≠ .addr)
    (h : d.writeByte c b k = .ok (r, e)) :
    RefCompletion ph d (.write b) (writeStatus ph b r) (writePhase ph b r) e := by
  unfold Device.writeByte at h
  cases hw : d.wst <;> simp only [hw] at h
  case wAddr =>
    cases k with
    | nack => cases h; exact .nack b
    | ack =>
      obtain ⟨blk, hb, h⟩ := needed_ok h
      cases h
      simpa [writeStatus, writePhase, hp] using RefCompletion.word b hp hw blk hb
  case wData =>
    cases k with
    | nack => cases h; exact .nack b
    | ack =>
      cases h
      simpa [writeStatus, writePhase, hp] using RefCompletion.byte b hp hw
  case idle | wFull | rd | skip => cases h

theorem completeWrite_refCompletion {b : Byte} {a : BusAnswer} {s u : State} {n : StatusName} (hm : s.cfg.mode = .ref)
    (h : completeWrite b a s = .ok (n, u)) : RefCompletion s.phase s.dev (.write b) n u.phase u.dev := by
  unfold completeWrite at h
  split at h
  · cases h
  · rename_i k v hk
    obtain ⟨d, rfl, -, hd⟩ := remoteAnswer_ok hk
    cases h
    have hd := hd hm
    split at hd
    · rename_i hp
      exact hp ▸ control_refCompletion hd
    · rename_i hp
      exact writeByte_refCompletion hp hd

theorem completeRead_ref {c : Pending} {k : AckBit} {m n : StatusName} {ph : Phase} {a : BusAnswer} {s u : State}
    (hm : s.cfg.mode = .ref) (h : completeRead c k m ph a s = .ok (n, u)) :
    n = m ∧ u.phase = ph ∧ ∃ ptr, s.dev.wst = .rd ∧ s.dev.ptr = some ptr ∧
      u.dev = { s.dev with ptr := some (ptr + 1#11) } := by
  unfold completeRead at h
  split at h
  · cases h
  · rename_i v w hv
    obtain ⟨d, rfl, -, hd⟩ := remoteByte_ok hv
    obtain ⟨ptr, hw, hptr, -, rfl⟩ := send_ok (hd hm)
    cases h
    exact ⟨rfl, rfl, ptr, hw, hptr, rfl⟩

theorem completion_ref {c : Pending} {a : BusAnswer} {s u : State} {n : StatusName} (hm : s.cfg.mode = .ref)
    (h : completion c a s = .ok (n, u)) : RefCompletion s.phase s.dev c n u.phase u.dev := by
  unfold completion at h
  split at h
  · cases h
    rw [busError_phase, busError_dev, if_pos hm]
    exact .busError c
  · cases c with
    | start =>
      have hu : (completeStart s).2 = u := congrArg Prod.snd (Except.ok.inj h)
      rw [← hu, completeStart_phase, completeStart_dev, if_pos hm]
      exact .start n
    | write b => exact completeWrite_refCompletion hm h
    | readAck =>
      obtain ⟨rfl, hp, ptr, hw, hptr, hd⟩ := completeRead_ref hm h
      exact hp ▸ hd ▸ .readAck hw ptr hptr
    | readNack =>
      obtain ⟨rfl, hp, ptr, hw, hptr, hd⟩ := completeRead_ref hm h
      exact hp ▸ hd ▸ .readNack hw ptr hptr

theorem completion_oracle {c : Pending} {a : BusAnswer} {s u : State} {n : StatusName} (hm : s.cfg.mode = .oracle)
    (h : completion c a s = .ok (n, u)) : u.dev = s.dev := by
  unfold completion at h
  split at h
  · cases h
    simp [busError_dev, hm]
  · cases c with
    | start =>
      have hu : (completeStart s).2 = u := congrArg Prod.snd (Except.ok.inj h)
      simp [← hu, completeStart_dev, hm]
    | write b =>
      simp only [completeWrite] at h
      split at h
      · cases h
      · rename_i hk
        obtain ⟨d, rfl, hd, -⟩ := remoteAnswer_ok hk
        cases h
        exact (hd hm).2
    | readAck | readNack =>
      simp only [completeRead] at h
      split at h
      · cases h
      · rename_i hk
        obtain ⟨d, rfl, hd, -⟩ := remoteByte_ok hk
        cases h
        exact (hd hm).2

/-! ### What a step does to PHASE and the device -/

/-- DEVICE_MODE, PHASE, TRACE and the device. -/
structure DeviceRegs where
  mode : DeviceMode
  phase : Phase
  trace : List BusEvent
  dev : Device

/-- Those of s. -/
def State.deviceRegs (s : State) : DeviceRegs := ⟨s.cfg.mode, s.phase, s.trace, s.dev⟩

theorem State.deviceRegs_eq {s : State} {r : DeviceRegs} (h : s.deviceRegs = r) :
    s.cfg.mode = r.mode ∧ s.phase = r.phase ∧ s.trace = r.trace ∧ s.dev = r.dev := by
  subst h
  exact ⟨rfl, rfl, rfl, rfl⟩

@[simp] theorem State.deviceRegs_useTurn (s : State) : s.useTurn.deviceRegs = s.deviceRegs := by
  simp [State.deviceRegs]

/-- What a step can do to PHASE, TRACE and the device. -/
inductive DeviceMove (r : DeviceRegs) : DeviceRegs → Prop where
  /-- No phase ends; TRACE may gain a DELAY. -/
  | kept (tr : List BusEvent) : DeviceMove r { r with trace := tr }
  /-- R84: INIT. -/
  | init : DeviceMove r { r with phase := .idle }
  /-- R86, R55: STOP. -/
  | stop (d : Device) (href : r.mode = .ref → ∃ c, r.dev.stopCondition c = .ok d)
      (horacle : r.mode = .oracle → d = r.dev) :
      DeviceMove r { r with phase := .idle, trace := r.trace ++ [.p], dev := d }
  /-- R82: the pending phase c completes. -/
  | completed (c : Pending) (n : StatusName) (ph : Phase) (tr : List BusEvent) (d : Device)
      (href : r.mode = .ref → RefCompletion r.phase r.dev c n ph d) (horacle : r.mode = .oracle → d = r.dev) :
      DeviceMove r { r with phase := ph, trace := tr, dev := d }

theorem issue_deviceMove {c : EngineCmd} {s t : State} (h : issue c s = .ok t) :
    DeviceMove s.deviceRegs t.deviceRegs := by
  have he := (issue_ok h).2
  cases c with
  | init d o => cases he; exact .init
  | stop =>
    obtain ⟨d, rfl, href, horacle⟩ := remoteStop_ok he
    exact .stop d (fun hm => ⟨_, href hm⟩) horacle
  | start | write | readAck | readNack => cases he; exact .kept _

theorem HostEffect.deviceMove {s t : State} (h : HostEffect s t) : DeviceMove s.deviceRegs t.deviceRegs := by
  cases h with
  | issued c _ hl hr h => exact issue_deviceMove h
  | seqIssued c _ hl hr h =>
    obtain ⟨_, _, rfl⟩ := seqIssue_ok h
    cases c <;> exact .kept _
  | raised | read | buf => exact .kept _

theorem SeqEffect.deviceMove {s t : State} (h : SeqEffect s t) : DeviceMove s.deviceRegs t.deviceRegs := by
  cases h with
  | issued c u h b l => exact issue_deviceMove (t := u) h
  | own | delay => exact .kept _

theorem complete_deviceMove {c : Pending} {s t : State} (h : complete c s = .ok t) :
    DeviceMove s.deviceRegs t.deviceRegs := by
  obtain ⟨n, u, hu, rfl⟩ := complete_ok h
  have href : s.cfg.mode = .ref → RefCompletion s.phase s.dev c n u.phase u.dev := fun hm => by
    simpa using completion_ref (by simpa using hm) hu
  have horacle : s.cfg.mode = .oracle → u.dev = s.dev := fun hm => by
    simpa using completion_oracle (by simpa using hm) hu
  obtain ⟨d, x, ph, tr, rfl⟩ := completion_ok hu
  have hregs : (State.finishPhase n s.nextAnswer.low
      { s.useAnswer with dev := d, data := x, phase := ph, trace := tr }).deviceRegs =
      { s.deviceRegs with phase := ph, trace := tr, dev := d } := by
    simp [State.deviceRegs]
  exact hregs ▸ .completed c n ph tr d href horacle

/-- What a step can do to PHASE, TRACE and the device. -/
theorem step_deviceMove {s t : State} (h : step s = .next t) : DeviceMove s.deviceRegs t.deviceRegs := by
  rw [← s.deviceRegs_useTurn]
  cases (step_effect h).2 with
  | config => exact s.deviceRegs_useTurn ▸ .kept _
  | host hl hg before after u hu => exact hu.deviceMove
  | sequencer hl hg op ho hr _ hu => exact (seqStep_effect hu).deviceMove
  | bus hl hg c hp hb _ hu => exact complete_deviceMove hu
  | pass | raised => exact .kept _

/-! ### The device's invariant (R51 to R57) -/

/-- No phase that completes changes MEM (R55). -/
theorem RefCompletion.mem {ph q : Phase} {d e : Device} {c : Pending} {n : StatusName} (h : RefCompletion ph d c n q e) :
    e.mem = d.mem := by
  cases h <;> rfl

/-- R55: the stop condition keeps MEM's canonical form. -/
theorem stopCondition_memWf {c : Cause} {d e : Device} (h : d.stopCondition c = .ok e) (hw : Memory.wf d.mem = true) :
    Memory.wf e.mem = true := by
  obtain ⟨-, ⟨-, rfl⟩ | ⟨ptr, v, -, -, -, rfl⟩⟩ := stopCondition_ok h
  · exact hw
  · exact Memory.write_wf ptr v hw

/-- DeviceInv is about the mode, PHASE and the device alone. -/
theorem DeviceInv.congr {s t : State} (hi : DeviceInv s) (hm : t.cfg.mode = s.cfg.mode) (hp : t.phase = s.phase)
    (hd : t.dev = s.dev) : DeviceInv t := by
  obtain ⟨h1, h2, h3, h4, h5, h6⟩ := hi
  constructor <;> simpa only [hm, hp, hd]

/-- R84, R86: the bus is released, and the device is as it was. -/
theorem DeviceInv.released {s t : State} (hi : DeviceInv s) (hp : t.phase = .idle) (hd : t.dev = s.dev) :
    DeviceInv t :=
  ⟨hd ▸ hi.memWf, by simp [hp], by simp [hp], hd ▸ hi.blkHeld, hd ▸ hi.ptrHeld, hd ▸ hi.wpendHeld⟩

/-- R55: the device has seen the stop condition. -/
theorem DeviceInv.stopCondition {s t : State} (hi : DeviceInv s) (hp : t.phase = .idle) {c : Cause}
    (hd : s.dev.stopCondition c = .ok t.dev) : DeviceInv t := by
  have hmem := stopCondition_memWf hd hi.memWf
  have hidle := (stopCondition_ok hd).1
  constructor <;> simp [hp, hmem, hidle]

/-- R59: in mode ORACLE the invariant is about the device alone. -/
theorem DeviceInv.of_oracle {s t : State} (hi : DeviceInv s) (hm : t.cfg.mode = .oracle) (hd : t.dev = s.dev) :
    DeviceInv t :=
  ⟨hd ▸ hi.memWf, by simp [hm], by simp [hm], hd ▸ hi.blkHeld, hd ▸ hi.ptrHeld, hd ▸ hi.wpendHeld⟩

/-- R52 to R57: a completed phase leaves the device in the position that its new PHASE needs. -/
theorem DeviceInv.of_refCompletion {s t : State} (hi : DeviceInv s) {c : Pending} {n : StatusName} {ph : Phase}
    {d : Device} (h : RefCompletion s.phase s.dev c n ph d) (hp : t.phase = ph) (hd : t.dev = d) : DeviceInv t := by
  cases h with
  | busError | start | nack | writeMode => constructor <;> simp [hp, hd, Device.abandon, hi.memWf]
  | readMode b _ _ ptr hs => constructor <;> simp [hp, hd, hs, hi.memWf]
  | word => constructor <;> simp [hp, hd, hi.memWf]
  | byte b _ hs => constructor <;> simp [hp, hd, hi.memWf, hi.ptrHeld (.inl hs)]
  | readAck hs | readNack hs => constructor <;> simp [hp, hd, hs, hi.memWf]

/-- Settles O11: every move of PHASE and the device keeps DeviceInv. -/
theorem everyStepKeepsTheDeviceInvariant : Obligations.EveryStepKeepsTheDeviceInvariant := by
  intro s t hi h
  have hm := step_deviceMove h
  generalize ht : t.deviceRegs = r at hm
  obtain ⟨hmode, hphase, -, hdev⟩ := State.deviceRegs_eq ht
  cases hm with
  | kept => exact hi.congr hmode hphase hdev
  | init => exact hi.released hphase hdev
  | stop d href horacle =>
    cases hs : s.cfg.mode with
    | oracle => exact hi.released hphase (hdev.trans (horacle hs))
    | ref =>
      obtain ⟨c, hc⟩ := href hs
      exact hi.stopCondition hphase (hc.trans (congrArg _ hdev.symm))
  | completed c n ph tr d href horacle =>
    cases hs : s.cfg.mode with
    | oracle => exact hi.of_oracle (hmode.trans hs) (hdev.trans (horacle hs))
    | ref => exact hi.of_refCompletion (href hs) hphase hdev

/-- Settles O57: of the moves of the device only STOP's changes MEM, in mode REF at a full write. -/
theorem memoryChangesOnlyAtAStop : Obligations.MemoryChangesOnlyAtAStop := by
  intro s t h hne
  have hm := step_deviceMove h
  generalize ht : t.deviceRegs = r at hm
  obtain ⟨-, -, htrace, hdev⟩ := State.deviceRegs_eq ht
  rw [hdev] at hne ⊢
  cases hm with
  | kept | init => exact absurd rfl hne
  | stop d href horacle =>
    cases hs : s.cfg.mode with
    | oracle => exact absurd (congrArg Device.mem (horacle hs)) hne
    | ref =>
      obtain ⟨c, hc⟩ := href hs
      obtain ⟨-, ⟨-, rfl⟩ | ⟨ptr, v, hw, hptr, hv, rfl⟩⟩ := stopCondition_ok hc
      · exact absurd rfl hne
      · exact ⟨rfl, hw, htrace, ptr, v, hptr, hv, rfl⟩
  | completed c n ph tr d href horacle =>
    cases hs : s.cfg.mode with
    | oracle => exact absurd (congrArg Device.mem (horacle hs)) hne
    | ref => exact absurd (href hs).mem hne

end Sys2Proof.Machine
end

section
/-! Proofs for the statements of spec/20_memory.md: what the reference device holds while an operation runs (R53, R54, R58). -/

namespace Sys2Proof.Machine

/-! ### The operation's registers -/

/-- The registers that SequencerDeviceInv is about. -/
def State.operationRegs (s : State) :
    Config × Option SeqCmd × Option LAddr × Device × Bool × Bool × SeqPc × Option Byte :=
  (s.cfg, s.seqOp, s.seqAddr, s.dev, s.seqIssued, s.busy, s.seqPc, s.statusRaw)

@[simp] theorem State.operationRegs_useTurn (s : State) : s.useTurn.operationRegs = s.operationRegs := by
  simp [State.operationRegs]

theorem SequencerDeviceInv.congr {s t : State} (hi : SequencerDeviceInv s) (h : t.operationRegs = s.operationRegs) :
    SequencerDeviceInv t := by
  simp only [State.operationRegs, Prod.mk.injEq] at h
  obtain ⟨hcfg, hop, haddr, hdev, hissued, hbusy, hpc, hraw⟩ := h
  obtain ⟨hbefore, hpassed⟩ := hi
  constructor <;> simpa only [hcfg, hop, haddr, hdev, hissued, hbusy, hpc, hraw]

/-- With no operation running the invariant says nothing. -/
theorem SequencerDeviceInv.of_noOp {s : State} (h : s.seqOp = none) : SequencerDeviceInv s := by
  constructor <;> simp [h]

/-- The labels whose command, or the command after it, needs something of the device. -/
def usesDevice : SeqPc → Bool
  | .wb2 | .wb3 | .wb4 | .rb2 | .rb3 | .rb4 | .rb5 => true
  | _ => false

theorem devicePre_of_unused {l : SeqPc} (h : usesDevice l = false) (a : LAddr) (d : Device) : devicePre a d l := by
  cases l <;> simp [usesDevice] at h <;> trivial

theorem devicePre_next_of_unused {l m : SeqPc} {n : StatusName} (h : usesDevice l = false)
    (hx : expectAt l = some (n, m)) (a : LAddr) (d : Device) : devicePre a d m := by
  cases l <;> simp [usesDevice] at h <;> cases hx <;> trivial

theorem SequencerDeviceInv.of_unused {s : State} (h : usesDevice s.seqPc = false) : SequencerDeviceInv s :=
  ⟨fun _ _ a _ _ => devicePre_of_unused h a s.dev, fun _ _ a _ _ _ _ _ _ hx _ _ => devicePre_next_of_unused h hx a s.dev⟩

/-! ### Steps of the sequencer -/

theorem issue_pending {c : Pending} {s t : State} (h : issue c.cmd s = .ok t) :
    ∃ x, t = { s with data := x }.beginPhase c := by
  have he := (issue_ok h).2
  cases c <;> cases he <;> exact ⟨_, rfl⟩

/-- R95: the issue keeps what the step needs, and a passed check hands on what the next step needs. -/
theorem prim_sequencerDeviceInv {c : Pending} {n : StatusName} {l : SeqPc} {pass : State → State} {s t : State}
    (hi : SequencerDeviceInv s) (hready : s.ready = true → s.busy = false) (hx : expectAt s.seqPc = some (n, l))
    (hpass : ∀ u, (pass u).operationRegs = (u.goto l).operationRegs) (h : prim c.cmd n pass s = .ok t) :
    SequencerDeviceInv t := by
  rcases prim_ok h with ⟨hn, u, hu, rfl⟩ | ⟨_, _, rfl⟩ | ⟨hs, hr, raw, hraw, ⟨hcode, rfl⟩ | ⟨_, rfl⟩⟩
  · obtain ⟨x, rfl⟩ := issue_pending hu
    exact ⟨fun hm ho a ha _ => hi.before hm ho a ha (.inl hn), by simp⟩
  · exact hi
  · refine SequencerDeviceInv.congr (s := { s with seqIssued := false }.goto l) ⟨?_, by simp⟩ (hpass _)
    exact fun hm ho a ha _ => hi.passed hm ho a ha hs (hready hr) n l raw hx hraw hcode
  · exact .of_unused rfl

theorem finishByte_unused {op : SeqCmd} {r : Result} {s t : State} (h : finishByte op r s = .ok t) :
    usesDevice t.seqPc = false := by
  cases op with
  | writeByte | readByte | writeArray => cases h; rfl
  | readArray =>
    obtain ⟨i, _, h⟩ := needed_ok h
    split at h
    · cases h
    · cases h; rfl

theorem writeLoopHead_unused {op : SeqCmd} {s t : State} (h : writeLoopHead op s = .ok t) :
    usesDevice t.seqPc = false := by
  obtain ⟨i, _, h⟩ := needed_ok h
  obtain ⟨n, _, h⟩ := needed_ok h
  split at h
  · cases h; rfl
  · split at h
    · cases h
    · obtain ⟨b, _, h⟩ := needed_ok h
      obtain ⟨base, _, h⟩ := needed_ok h
      cases h; rfl

theorem readLoopHead_unused {op : SeqCmd} {s t : State} (h : readLoopHead op s = .ok t) :
    usesDevice t.seqPc = false := by
  obtain ⟨i, _, h⟩ := needed_ok h
  obtain ⟨n, _, h⟩ := needed_ok h
  split at h
  · cases h; rfl
  · obtain ⟨base, _, h⟩ := needed_ok h
    cases h; rfl

theorem loopNext_unused {op : SeqCmd} {l : SeqPc} {s t : State} (hl : usesDevice l = false)
    (h : loopNext op l s = .ok t) : usesDevice t.seqPc = false := by
  unfold loopNext at h
  split at h
  · cases h; rfl
  · obtain ⟨i, _, h⟩ := needed_ok h
    cases h; exact hl

theorem primStop_unused {l : SeqPc} {s t : State} (hl : usesDevice l = false) (h : primStop l s = .ok t) :
    usesDevice t.seqPc = false := by
  unfold primStop at h
  split at h
  · cases h
  · cases h; exact hl

/-- A micro-step keeps the invariant: the ten steps with a check by `prim_sequencerDeviceInv`, and every other step goes to a
label that needs nothing of the device. -/
theorem seqStep_sequencerDeviceInv {op : SeqCmd} {s t : State} (hi : SequencerDeviceInv s)
    (hready : s.ready = true → s.busy = false) (h : seqStep op s = .ok t) : SequencerDeviceInv t := by
  unfold seqStep at h
  cases hpc : s.seqPc <;> simp only [hpc] at h
  case wb1 | rb1 | rb4 =>
    exact prim_sequencerDeviceInv (c := .start) hi hready (hpc ▸ rfl) (fun _ => rfl) h
  case wb2 | wb3 | wb4 | rb2 | rb3 | rb5 =>
    obtain ⟨x, _, h⟩ := needed_ok h
    exact prim_sequencerDeviceInv (c := .write _) hi hready (hpc ▸ rfl) (fun _ => rfl) h
  case rb6 =>
    refine prim_sequencerDeviceInv (c := .readNack) (l := .rb7) hi hready (hpc ▸ rfl) ?_ h
    exact fun _ => rfl
  case wb5 | rb7 => exact .of_unused (primStop_unused rfl h)
  case wb6 | rb8 | err => exact .of_unused (finishByte_unused h)
  case wa1 => exact .of_unused (writeLoopHead_unused h)
  case ra1 => exact .of_unused (readLoopHead_unused h)
  case wa3 | ra3 => exact .of_unused (loopNext_unused rfl h)
  case wa2 | ra2 | wa4 | ra4 | seqEnd => cases h; exact .of_unused rfl
  case idle => cases h; exact hi

/-! ### Steps of the host -/

/-- R92, R94: the host issues an engine command only while no operation runs, and a sequencer command starts at a label that
needs nothing of the device. -/
theorem HostEffect.sequencerDeviceInv {s t : State} (h : HostEffect s t) (hr : s.seqReady = s.seqOp.isNone)
    (hi : SequencerDeviceInv s) : SequencerDeviceInv t := by
  cases h with
  | raised | read | buf => exact hi.congr rfl
  | issued c _ hl hready h =>
    have hop : s.seqOp = none := by simpa [hready] using hr
    cases issue_effect h <;> exact .of_noOp hop
  | seqIssued c _ hl hready h =>
    obtain ⟨_, _, rfl⟩ := seqIssue_ok h
    cases c <;> exact .of_unused rfl

/-! ### Completions -/

/-- R95: while a phase of the running operation is in flight, it is the one its step's command started. -/
theorem MachineInv.inFlight {s : State} (hi : MachineInv s) {op : SeqCmd} (ho : s.seqOp = some op)
    (hb : s.busy = true) :
    s.seqIssued = true ∧ s.pend = startsAt s ∧ ∀ p, phaseAt s.seqPc = some p → s.phase = p := by
  have hrun := hi.sequencer.running op ho
  have hissued : s.seqIssued = true := by
    by_contra hn
    have := (hrun.notIssued (by simpa using hn)).1
    simp [hb] at this
  obtain ⟨n, l, -, hbusy, -⟩ := hrun.waiting hissued
  exact ⟨hissued, hbusy hb⟩

/-- R82: what a completion leaves alone. -/
theorem complete_frame {c : Pending} {s t : State} (h : complete c s = .ok t) :
    t.cfg = s.cfg ∧ t.seqOp = s.seqOp ∧ t.seqAddr = s.seqAddr ∧ t.seqPc = s.seqPc ∧ t.seqIssued = s.seqIssued ∧
    t.faulted = s.faulted ∧ t.busy = false := by
  obtain ⟨n, u, hu, rfl⟩ := complete_ok h
  obtain ⟨d, x, ph, tr, rfl⟩ := completion_ok hu
  simp

/-- R82 in mode REF. -/
theorem complete_ref {c : Pending} {s t : State} (hm : s.cfg.mode = .ref) (h : complete c s = .ok t) :
    ∃ n low, RefCompletion s.phase s.dev c n t.phase t.dev ∧
      t.statusRaw = some (s.cfg.sc.code n ||| BitVec.setWidth 8 (low : BitVec 3)) := by
  obtain ⟨n, u, hu, rfl⟩ := complete_ok h
  refine ⟨n, s.nextAnswer.low, by simpa using completion_ref (by simpa using hm) hu, ?_⟩
  obtain ⟨d, x, ph, tr, rfl⟩ := completion_ok hu
  simp

/-- R87: a byte that is not acknowledged gets none of the two statuses that a write passes with. -/
theorem writeStatus_nack_ne (ph : Phase) (b : Byte) :
    writeStatus ph b .nack ≠ .addressAckW ∧ writeStatus ph b .nack ≠ .dataAck := by
  unfold writeStatus
  split
  · split <;> simp
  · simp

/-- R53: an acknowledged write-mode control byte. -/
theorem RefCompletion.control {b : Byte} {d e : Device} {ph q : Phase}
    (h : RefCompletion ph d (.write b) .addressAckW q e) : e.wst = .wAddr ∧ e.blk = some (b.extractLsb' 1 3) := by
  generalize hn : StatusName.addressAckW = n at h
  cases h with
  | writeMode => exact ⟨rfl, rfl⟩
  | nack => exact absurd hn.symm (writeStatus_nack_ne ph b).1
  | _ => cases hn

/-- R54: an acknowledged word address byte. -/
theorem RefCompletion.wordAddress {b : Byte} {d e : Device} {ph q : Phase} {blk : BitVec 3}
    (h : RefCompletion ph d (.write b) .dataAck q e) (hw : d.wst = .wAddr) (hb : d.blk = some blk) :
    e.wst = .wData ∧ e.ptr = some (blk ++ b) := by
  generalize hn : StatusName.dataAck = n at h
  cases h with
  | word _ _ _ blk' hb' => exact ⟨rfl, by rw [Option.some.inj (hb.symm.trans hb')]⟩
  | nack => exact absurd hn.symm (writeStatus_nack_ne ph b).2
  | byte _ _ hw' => simp [hw] at hw'
  | _ => cases hn

/-- R52: a start condition keeps the pointer. -/
theorem RefCompletion.start_ptr {d e : Device} {ph q : Phase} {n : StatusName}
    (h : RefCompletion ph d .start n q e) : e.ptr = d.ptr := by
  cases h <;> rfl

/-- R53, R54, R58: a phase of a running operation whose status passes the check leaves the device as the next step needs it. -/
theorem RefCompletion.devicePre_next {s : State} {c : Pending} {n : StatusName} {l : SeqPc} {ph : Phase} {d : Device}
    {a : LAddr} (h : RefCompletion s.phase s.dev c n ph d) (hc : some c = startsAt s) (ha : s.seqAddr = some a)
    (hx : expectAt s.seqPc = some (n, l)) (hpre : devicePre a s.dev s.seqPc) : devicePre a d l := by
  unfold startsAt at hc
  rw [ha] at hc
  cases hpc : s.seqPc <;> simp only [hpc] at hc hx hpre <;> cases hx
  case wb1 | wb4 | rb1 | rb5 | rb6 => trivial
  case wb2 | rb2 =>
    cases hc
    rw [devicePre, ← controlByte_block a .write]
    exact h.control
  case wb3 =>
    cases hc
    exact (h.wordAddress hpre.1 hpre.2).1
  case rb3 =>
    cases hc
    rw [devicePre, effective_eq_append]
    exact h.wordAddress hpre.1 hpre.2
  case rb4 =>
    cases hc
    exact h.start_ptr.trans hpre.2

/-- R82: a completion keeps the invariant. The status says which name the check sees (R74), and that name what the device
answered. -/
theorem complete_sequencerDeviceInv {c : Pending} {s t : State} (hl : s.live) (hi : SequencerDeviceInv s)
    (hflight : s.seqOp.isSome = true → s.seqIssued = true ∧ s.pend = startsAt s) (hp : s.pend = some c)
    (hb : s.busy = true) (h : complete c s = .ok t) : SequencerDeviceInv t := by
  obtain ⟨hcfg, hop, haddr, hpc, hissued, -, hbusy⟩ := complete_frame h
  constructor <;> rw [hcfg, hop, haddr, hissued, hbusy]
  · intro _ ho a _ hor
    simp [(hflight ho).1] at hor
  · intro hm ho a ha hs _ m l raw hx hraw hcode
    obtain ⟨n, low, hcomp, hstatus⟩ := complete_ref hm h
    have hn : n = m := code_injective hl.2 (by
      rw [← hcode, ← maskStatus_code hl.2 n low, Option.some.inj (hraw.symm.trans hstatus)])
    subst hn
    rw [hpc] at hx
    exact hcomp.devicePre_next (hp.symm.trans (hflight ho).2) ha hx (hi.before hm ho a ha (.inr hb))

/-- Settles O41: `HostEffect.sequencerDeviceInv`, `seqStep_sequencerDeviceInv` and `complete_sequencerDeviceInv`, by the agent
that moves. -/
theorem everyStepKeepsTheSequencerDeviceInvariant : Obligations.EveryStepKeepsTheSequencerDeviceInvariant := by
  intro s t hm hi h
  have hu : SequencerDeviceInv s.useTurn := hi.congr s.operationRegs_useTurn
  cases (step_effect h).2 with
  | config => exact hi.congr rfl
  | pass | raised => exact hu.congr rfl
  | host hl hg before after u he =>
    have hr : s.useTurn.seqReady = s.useTurn.seqOp.isNone := by simpa using hm.sequencer.readyOp
    exact (he.sequencerDeviceInv hr (hu.congr rfl)).congr rfl
  | sequencer hl hg op ho hr _ hs =>
    exact seqStep_sequencerDeviceInv hu (by simpa using hm.engine.readyIdle) hs
  | bus hl hg c hp hb _ hc =>
    refine complete_sequencerDeviceInv (useTurn_live hl) hu (fun ho => ?_) (by simpa using hp) (by simpa using hb) hc
    obtain ⟨op, ho⟩ := Option.isSome_iff_exists.mp ho
    obtain ⟨hissued, hpend, -⟩ := hm.inFlight (by simpa using ho) hb
    exact ⟨by simpa using hissued, by simpa [startsAt] using hpend⟩

/-! ### The device refuses no phase of an operation (R58) -/

/-- The device has a rule for the completion of phase c from PHASE ph. -/
def Device.accepts (ph : Phase) (d : Device) : Pending → Prop
  | .start => True
  | .write b =>
    if ph = .addr then
      b.extractLsb' 0 1 ≠ 0#1 → ∃ ptr, d.ptr = some ptr ∧ ptr.extractLsb' 8 3 = b.extractLsb' 1 3
    else (d.wst = .wAddr ∧ d.blk.isSome = true) ∨ d.wst = .wData
  | .readAck | .readNack => d.wst = .rd ∧ d.ptr.isSome = true

theorem control_of_accepts {d : Device} {b : Byte} (h : d.accepts .addr (.write b)) (c : Cause) (k : AckBit) :
    ∃ x, d.control c b k = .ok x := by
  by_cases hn : b.extractLsb' 4 4 ≠ 0xA#4 ∨ k = .nack
  · exact ⟨_, control_nack hn⟩
  · obtain ⟨hb, hk⟩ := not_or.mp hn
    obtain rfl : k = .ack := by cases k <;> simp at hk ⊢
    by_cases hd : b.extractLsb' 0 1 = 0#1
    · exact ⟨_, control_write (not_not.mp hb) hd⟩
    · obtain ⟨ptr, hptr, hblk⟩ := h hd
      exact ⟨_, control_read (not_not.mp hb) (bit_eq_one hd) hptr hblk⟩

theorem writeByte_of_accepts {d : Device} {b : Byte} {ph : Phase} (hp : ph ≠ .addr) (h : d.accepts ph (.write b))
    (c : Cause) (k : AckBit) : ∃ x, d.writeByte c b k = .ok x := by
  rw [Device.accepts, if_neg hp] at h
  cases k with
  | nack => exact ⟨_, writeByte_nack (h.imp_left And.left)⟩
  | ack =>
    obtain ⟨hw, hb⟩ | hw := h
    · obtain ⟨blk, hb⟩ := Option.isSome_iff_exists.mp hb
      exact ⟨_, writeByte_wAddr hw hb⟩
    · exact ⟨_, writeByte_wData hw⟩

theorem send_of_accepts {d : Device} (h : d.wst = .rd ∧ d.ptr.isSome = true) (c : Cause) :
    ∃ x, d.send c = .ok x := by
  obtain ⟨ptr, hp⟩ := Option.isSome_iff_exists.mp h.2
  exact ⟨_, send_rd h.1 hp⟩

theorem remoteAnswer_of_accepts {s : State} {b : Byte} (h : s.cfg.mode = .ref → s.dev.accepts s.phase (.write b))
    (c : Cause) (k : AckBit) : ∃ x, s.remoteAnswer c b k = .ok x := by
  unfold State.remoteAnswer
  cases hm : s.cfg.mode with
  | oracle => exact ⟨_, rfl⟩
  | ref =>
    have ha := h hm
    have hx : ∃ x, (if s.phase = .addr then s.dev.control c b k else s.dev.writeByte c b k) = .ok x := by
      split
      · rename_i hp
        exact control_of_accepts (hp ▸ ha) c k
      · rename_i hp
        exact writeByte_of_accepts hp ha c k
    obtain ⟨x, hx⟩ := hx
    exact ⟨_, by rw [hx]⟩

theorem remoteByte_of_accepts {s : State} (h : s.cfg.mode = .ref → s.dev.wst = .rd ∧ s.dev.ptr.isSome = true)
    (c : Cause) (v : Byte) : ∃ x, s.remoteByte c v = .ok x := by
  unfold State.remoteByte
  cases hm : s.cfg.mode with
  | oracle => exact ⟨_, rfl⟩
  | ref =>
    obtain ⟨x, hx⟩ := send_of_accepts (h hm) c
    exact ⟨_, by rw [hx]⟩

theorem completion_of_accepts {s : State} {c : Pending} (h : s.cfg.mode = .ref → s.dev.accepts s.phase c)
    (a : BusAnswer) : ∃ x, completion c a s = .ok x := by
  unfold completion
  split
  · exact ⟨_, rfl⟩
  · cases c with
    | start => exact ⟨_, rfl⟩
    | write b =>
      obtain ⟨x, hx⟩ := remoteAnswer_of_accepts h (.command (encodeEngine (.write b))) a.ack
      exact ⟨_, by simp only [completeWrite, hx]; rfl⟩
    | readAck =>
      obtain ⟨x, hx⟩ := remoteByte_of_accepts h (.command (Pending.word .readAck)) a.rx
      exact ⟨_, by simp only [completeRead, hx]; rfl⟩
    | readNack =>
      obtain ⟨x, hx⟩ := remoteByte_of_accepts h (.command (Pending.word .readNack)) a.rx
      exact ⟨_, by simp only [completeRead, hx]; rfl⟩

/-- R53, R54, R58: the device has a rule for each phase of an operation. -/
theorem accepts_of_devicePre {s : State} {c : Pending} {a : LAddr} (hd : DeviceInv s) (hm : s.cfg.mode = .ref)
    (hc : some c = startsAt s) (ha : s.seqAddr = some a) (hp : ∀ p, phaseAt s.seqPc = some p → s.phase = p)
    (hpre : devicePre a s.dev s.seqPc) : s.dev.accepts s.phase c := by
  unfold startsAt at hc
  rw [ha] at hc
  cases hpc : s.seqPc <;> simp only [hpc] at hc hp hpre
  case wb1 | rb1 | rb4 =>
    cases hc
    trivial
  case wb2 | rb2 =>
    cases hc
    rw [hp .addr rfl]
    exact fun h => absurd (controlByte_direction a .write) h
  case wb3 | rb3 =>
    cases hc
    rw [hp .mt rfl]
    exact .inl ⟨hpre.1, by simp [hpre.2]⟩
  case wb4 =>
    obtain ⟨v, -, rfl⟩ := Option.map_eq_some_iff.mp hc.symm
    rw [hp .mt rfl]
    exact .inr hpre
  case rb5 =>
    cases hc
    rw [hp .addr rfl]
    exact fun _ => ⟨effective a, hpre, by rw [effective_block, controlByte_block]⟩
  case rb6 =>
    cases hc
    have hw := hd.receiver hm (hp .mr rfl)
    exact ⟨hw, hd.ptrHeld (.inr (.inr hw))⟩
  all_goals cases hc

theorem complete_of_accepts {s : State} {c : Pending} (h : s.cfg.mode = .ref → s.dev.accepts s.phase c) :
    ∃ t, complete c s = .ok t := by
  obtain ⟨⟨n, u⟩, hx⟩ := completion_of_accepts (s := s.useAnswer) (by simpa using h) s.nextAnswer
  exact ⟨_, by rw [complete, hx]⟩

/-- A label whose command starts a phase is one of the two micro-programs'. -/
theorem label_of_startsAt {s : State} {c : Pending} (h : some c = startsAt s) :
    isWriteLabel s.seqPc = true ∨ isReadLabel s.seqPc = true := by
  unfold startsAt at h
  cases hpc : s.seqPc <;> simp [hpc] at h <;> simp [isWriteLabel, isReadLabel]

/-- Settles O40: the pending phase is the one the operation's step started, and for that phase the device has a rule. -/
theorem sequencerPhasesAreNeverRefused : Obligations.SequencerPhasesAreNeverRefused := by
  intro op s t hm hi hl ho h
  unfold busTurn at h
  split at h
  · cases h
    exact hl.1
  · rename_i c hp
    split at h
    · rename_i hb
      obtain ⟨hissued, hpend, hphase⟩ := hm.inFlight ho hb
      have hc : some c = startsAt s := hp.symm.trans hpend
      obtain ⟨a, ha⟩ := Option.isSome_iff_exists.mp ((hm.sequencer.running op ho).addrHeld (label_of_startsAt hc))
      have haccepts : s.cfg.mode = .ref → s.dev.accepts s.phase c := fun href =>
        accepts_of_devicePre hm.device href hc ha hphase (hi.before href (by simp [ho]) a ha (.inr hb))
      obtain ⟨u, hu⟩ := complete_of_accepts haccepts
      rw [act_ok hl hu] at h
      cases h
      obtain ⟨-, -, -, -, -, hfault, -⟩ := complete_frame hu
      exact hfault.trans hl.1
    · cases h
      exact hl.1

end Sys2Proof.Machine
end

section
/-! Proofs for the statements of spec/20_memory.md: completions with a scripted answer (R53, R54, R82), in either mode. -/

namespace Sys2Proof.Machine

/-! ### A completion that its rule gives (R82 to R89) -/

theorem complete_scripted {s u : State} {c : Pending} {a : BusAnswer} {rest : List BusAnswer} {n : StatusName}
    (ha : s.answers = a :: rest) (h : completion c a { s with answers := rest } = .ok (n, u)) :
    complete c s = .ok (u.finishPhase n a.low) := by
  rw [complete, nextAnswer_cons ha, useAnswer_cons ha, h]

theorem completion_start {s : State} {a : BusAnswer} (hb : a.berr = false) :
    completion .start a s = .ok (if s.phase = .idle then .start else .repeatedStart,
      { s with trace := s.trace ++ [if s.phase = .idle then .s else .sr], phase := .addr,
               dev := if s.cfg.mode = .ref then s.dev.abandon else s.dev }) := by
  cases hm : s.cfg.mode <;> by_cases hp : s.phase = .idle <;>
    simp [completion, hb, completeStart, hp, State.remoteAbandon, State.emit, hm]

/-- R87: byte b is answered r, and the device goes to d: the device's answer in mode REF, the drawn one in mode ORACLE. -/
theorem completion_write {s : State} {b : Byte} {a : BusAnswer} {r : AckBit} {d : Device} (hb : a.berr = false)
    (href : s.cfg.mode = .ref →
      (if s.phase = .addr then s.dev.control (.command (encodeEngine (.write b))) b a.ack
        else s.dev.writeByte (.command (encodeEngine (.write b))) b a.ack) = .ok (r, d))
    (horacle : s.cfg.mode = .oracle → r = a.ack ∧ d = s.dev) :
    completion (.write b) a s = .ok (writeStatus s.phase b r,
      { s with trace := s.trace ++ [.tx b r], phase := writePhase s.phase b r, dev := d }) := by
  have hr : s.remoteAnswer (.command (encodeEngine (.write b))) b a.ack = .ok (r, { s with dev := d }) := by
    unfold State.remoteAnswer
    cases hm : s.cfg.mode with
    | oracle =>
      obtain ⟨rfl, rfl⟩ := horacle hm
      rfl
    | ref => simp only [href hm]
  simp [completion, hb, completeWrite, hr, State.emit]

/-- R89: byte v is received, and the device goes to d. -/
theorem completion_readNack {s : State} {a : BusAnswer} {v : Byte} {d : Device} (hb : a.berr = false)
    (href : s.cfg.mode = .ref → s.dev.send (.command (Pending.word .readNack)) = .ok (v, d))
    (horacle : s.cfg.mode = .oracle → v = a.rx ∧ d = s.dev) :
    completion .readNack a s = .ok (.dataNack,
      { s with trace := s.trace ++ [.rx v .nack], data := some v, phase := .hold, dev := d }) := by
  have hr : s.remoteByte (.command (Pending.word .readNack)) a.rx = .ok (v, { s with dev := d }) := by
    unfold State.remoteByte
    cases hm : s.cfg.mode with
    | oracle =>
      obtain ⟨rfl, rfl⟩ := horacle hm
      rfl
    | ref => simp only [href hm]
  simp [completion, hb, completeRead, hr, State.emit]

/-! ### A byte in mode REF (R53, R54, R58) -/

theorem busTurn_eq {s : State} {c : Pending} (hl : s.live) (hb : s.busy = true) (hp : s.pend = some c) :
    busTurn s = .next (settle s (complete c s)) := by
  simp only [busTurn, hp, hb, if_true]
  exact act_of_live hl

section
variable {s : State} {b : Byte} {a : BusAnswer} {rest : List BusAnswer}

/-- R87 with the device's answer r. -/
theorem busTurn_write {k r : AckBit} {d : Device} (hl : s.live) (hm : s.cfg.mode = .ref) (hb : s.busy = true)
    (hp : s.pend = some (.write b)) (ha : s.answers = a :: rest) (hberr : a.berr = false) (hk : a.ack = k)
    (h : (if s.phase = .addr then s.dev.control (.command (encodeEngine (.write b))) b k
        else s.dev.writeByte (.command (encodeEngine (.write b))) b k) = .ok (r, d)) :
    busTurn s = .next { s with
      answers := rest, busy := false, pend := none, ready := true, phase := writePhase s.phase b r,
      trace := s.trace ++ [.tx b r], statusRaw := some (s.cfg.sc.code (writeStatus s.phase b r) ||| a.low.setWidth 8),
      dev := d } := by
  subst hk
  have hc := completion_write (s := { s with answers := rest }) hberr (fun _ => h) (by simp [hm])
  rw [busTurn_eq hl hb hp, complete_scripted ha hc]
  rfl

/-- R58, R109: the device's refusal is raised on the state as it was. -/
theorem busTurn_write_refused {k : AckBit} {e : Stop} (hl : s.live) (hm : s.cfg.mode = .ref) (hb : s.busy = true)
    (hp : s.pend = some (.write b)) (ha : s.answers = a :: rest) (hberr : a.berr = false) (hk : a.ack = k)
    (h : (if s.phase = .addr then s.dev.control (.command (encodeEngine (.write b))) b k
        else s.dev.writeByte (.command (encodeEngine (.write b))) b k) = .error e) :
    busTurn s = .next (s.raise e) := by
  subst hk
  have hc : complete (.write b) s = .error e := by
    simp [complete, nextAnswer_cons ha, useAnswer_cons ha, completion, hberr, completeWrite, State.remoteAnswer, hm, h]
  rw [busTurn_eq hl hb hp, hc]
  rfl

end

/-- Settles O24: the four cases of `Device.control`. -/
theorem controlByteReachesTheDevice : Obligations.ControlByteReachesTheDevice := by
  intro b s a rest hl hm hb hp hph ha hberr
  refine ⟨fun h => ?_, fun hdev hk hd => ?_, fun hdev hk hd ptr hptr hblk => ?_, fun hdev hk hd hptr => ?_⟩
  · rw [busTurn_write hl hm hb hp ha hberr rfl ((if_pos hph).trans (control_nack h))]
    by_cases hd : b.extractLsb' 0 1 = 0#1 <;> simp [hph, writePhase, writeStatus, hd, StatusTable.code]
  · rw [busTurn_write hl hm hb hp ha hberr hk ((if_pos hph).trans (control_write hdev hd))]
    simp [hph, writePhase, writeStatus, hd, StatusTable.code]
  · rw [busTurn_write hl hm hb hp ha hberr hk ((if_pos hph).trans (control_read hdev hd hptr hblk))]
    simp [hph, writePhase, writeStatus, hd, StatusTable.code]
  · exact busTurn_write_refused hl hm hb hp ha hberr hk ((if_pos hph).trans (control_unmodelled hdev hd hptr))

/-- Settles O25: the four cases of `Device.writeByte`. -/
theorem writeTransactionBytesReachTheDevice : Obligations.WriteTransactionBytesReachTheDevice := by
  intro b s a rest hl hm hb hp hph ha hberr
  have hne : s.phase ≠ .addr := by simp [hph]
  refine ⟨fun hw hk blk hblk => ?_, fun hw hk => ?_, fun hw hk => ?_, fun hw => ?_⟩
  · rw [busTurn_write hl hm hb hp ha hberr hk ((if_neg hne).trans (writeByte_wAddr hw hblk))]
    simp [hph, writePhase, writeStatus, StatusTable.code]
  · rw [busTurn_write hl hm hb hp ha hberr hk ((if_neg hne).trans (writeByte_wData hw))]
    simp [hph, writePhase, writeStatus, StatusTable.code]
  · rw [busTurn_write hl hm hb hp ha hberr hk ((if_neg hne).trans (writeByte_nack hw))]
    simp [hph, writePhase, writeStatus, StatusTable.code]
  · exact busTurn_write_refused hl hm hb hp ha hberr rfl ((if_neg hne).trans (writeByte_wFull hw))

end Sys2Proof.Machine
end

section
/-! Proofs for the statements of spec/20_memory.md: single-byte operations run to their end on scripted turns and answers
(R97, R98, 95_test_vectors.md W6). -/

namespace Sys2Proof.Machine

/-! ### Runs -/

/-- A run whose first step answers a next state. -/
theorem run_succ {M : Host.Core} {s t : M.State} (h : M.step s = .next t) (k : Nat) : M.run (k + 1) s = M.run k t := by
  rw [Host.Core.run, h]

/-- A run of j steps, then of k. -/
theorem run_add {M : Host.Core} {j : Nat} {s t : M.State} (h : M.run j s = .next t) (k : Nat) :
    M.run (j + k) s = M.run k t := by
  induction j generalizing s with
  | zero =>
    cases h
    rw [Nat.zero_add]
  | succ j ih =>
    rw [Host.Core.run] at h
    split at h
    · rename_i u hu
      rw [Nat.add_right_comm, run_succ hu, ih h]
    · cases h
    · cases h

theorem step_of_turn {s : State} {g : Agent} {ts : List Agent} (hl : s.live) (ht : s.turns = g :: ts) :
    step s = agentTurn g { s with turns := ts } := by
  rw [step, machineStep, stopped_of_live hl, nextAgent_cons ht, useTurn_cons ht]

/-- Operation op runs, and its step is to be taken with nothing issued or in flight. -/
structure Runs (op : SeqCmd) (s : State) : Prop where
  live : s.live
  op : s.seqOp = some op
  running : s.seqReady = false
  enabled : s.en = true
  idle : s.busy = false
  notIssued : s.seqIssued = false

theorem step_sequencer {op : SeqCmd} {s t : State} {ts : List Agent} (hl : s.live) (ho : s.seqOp = some op)
    (hr : s.seqReady = false) (ht : s.turns = .sequencer :: ts) (h : seqStep op { s with turns := ts } = .ok t) :
    step s = .next t := by
  have hturn : sequencerTurn { s with turns := ts } = act (seqStep op) { s with turns := ts } := by
    simp [sequencerTurn, ho, hr]
  exact (step_of_turn hl ht).trans (hturn.trans (act_ok (s := { s with turns := ts }) hl h))

theorem step_bus {c : Pending} {s t : State} {ts : List Agent} (hl : s.live) (hb : s.busy = true)
    (hp : s.pend = some c) (ht : s.turns = .bus :: ts) (h : complete c { s with turns := ts } = .ok t) :
    step s = .next t := by
  rw [step_of_turn hl ht]
  exact (busTurn_eq (s := { s with turns := ts }) hl hb hp).trans (by rw [h]; rfl)

/-! ### `Prim(c) expect n` that passes (R95) -/

/-- What a passed check does on the way to label l: RB6 keeps DATA in SEQ_RD (R98). -/
def State.passTo (l : SeqPc) (s : State) : State :=
  { s with seqPc := l, seqRd := if l = .rb7 then s.data else s.seqRd }

/-- R97, R98: a step with a check is the Prim of the phase its command starts. -/
theorem seqStep_prim {op : SeqCmd} {s : State} {c : Pending} {n : StatusName} {l : SeqPc}
    (hc : startsAt s = some c) (hx : expectAt s.seqPc = some (n, l)) :
    seqStep op s = prim c.cmd n (State.passTo l) s := by
  unfold startsAt at hc
  unfold seqStep
  cases hpc : s.seqPc <;> simp only [hpc] at hc hx ⊢ <;> cases hx
  case wb1 | rb1 | rb4 | rb6 =>
    cases hc
    rfl
  all_goals
    obtain ⟨x, hx, rfl⟩ := Option.map_eq_some_iff.mp hc
    rw [hx]
    rfl

/-- DATA after the issue of c (R87 to R89). -/
def Pending.dataAfter (c : Pending) (x : Option Byte) : Option Byte :=
  match c with
  | .start => x
  | .write b => some b
  | .readAck | .readNack => none

theorem issue_of_legal {c : Pending} {s : State} (he : s.en = true) (hb : s.busy = false)
    (hc : legalIn c.cmd s.phase = true) :
    issue c.cmd s = .ok ({ s with data := c.dataAfter s.data }.beginPhase c) := by
  have hf : issueFault c.cmd s = none := (issueFault_none (by cases c <;> simp [Pending.cmd])).mpr ⟨he, hb, hc⟩
  rw [issue, hf]
  cases c <;> rfl

/-- The state after the issue of c by the sequencer, with the turns ts to come. -/
def State.issued (c : Pending) (ts : List Agent) (s : State) : State :=
  { { s with data := c.dataAfter s.data, turns := ts }.beginPhase c with seqIssued := true }

theorem prim_issue {c : Pending} {n : StatusName} {pass : State → State} {s : State} (hi : s.seqIssued = false)
    (he : s.en = true) (hb : s.busy = false) (hc : legalIn c.cmd s.phase = true) :
    prim c.cmd n pass s = .ok (s.issued c s.turns) := by
  rw [prim, if_neg (by simp [hi]), issue_of_legal he hb hc]
  rfl

theorem prim_pass {c : EngineCmd} {n : StatusName} {pass : State → State} {s : State} {low : BitVec 3}
    (hl : s.cfg.sc.legal = true) (hi : s.seqIssued = true) (hr : s.ready = true)
    (hraw : s.statusRaw = some (s.cfg.sc.code n ||| low.setWidth 8)) :
    prim c n pass s = .ok (pass { s with seqIssued := false }) := by
  rw [prim, if_pos hi, if_pos hr, primCheck, hraw, needed_some, if_pos (maskStatus_code hl n low)]

/-- Where an operation stands between two steps, with a status held and nothing in flight. -/
structure Position where
  label : SeqPc
  status : Byte
  data : Option Byte
  phase : Phase
  trace : List BusEvent
  dev : Device
  turns : List Agent
  answers : List BusAnswer

/-- The operation of s at position p. -/
def State.midOp (p : Position) (s : State) : State :=
  { s with seqPc := p.label, statusRaw := some p.status, data := p.data, phase := p.phase, trace := p.trace, dev := p.dev,
           turns := p.turns, answers := p.answers, ready := true, busy := false, pend := none, seqIssued := false }

theorem Runs.midOp {op : SeqCmd} {s : State} (h : Runs op s) (p : Position) : Runs op (s.midOp p) :=
  ⟨h.live, h.op, h.running, h.enabled, rfl, rfl⟩

/-- R95: issue, completion and passed check. -/
theorem run_prim {op : SeqCmd} {s : State} {c : Pending} {n : StatusName} {l : SeqPc} {k : BusAnswer} {x : Option Byte}
    {ph : Phase} {e : BusEvent} {d : Device} {ts : List Agent} {rest : List BusAnswer} (h : Runs op s)
    (ht : s.turns = primTurns ++ ts) (ha : s.answers = k :: rest) (hc : startsAt s = some c)
    (hx : expectAt s.seqPc = some (n, l)) (hlegal : legalIn c.cmd s.phase = true)
    (hdone : ∀ v : State, v.cfg = s.cfg → v.phase = s.phase → v.dev = s.dev → v.data = c.dataAfter s.data →
      completion c k v = .ok (n, { v with trace := v.trace ++ [e], data := x, phase := ph, dev := d })) :
    Sys2Proof.core.run 3 s = .next ((s.midOp
      ⟨l, s.cfg.sc.code n ||| k.low.setWidth 8, x, ph, s.trace ++ [e], d, ts, rest⟩).passTo l) := by
  obtain ⟨hl, ho, hr, he, hb, hi⟩ := h
  have h1 : step s = .next (s.issued c (.bus :: .sequencer :: ts)) :=
    step_sequencer hl ho hr ht
      ((seqStep_prim (s := { s with turns := .bus :: .sequencer :: ts }) hc hx).trans (prim_issue hi he hb hlegal))
  have h2 : step (s.issued c (.bus :: .sequencer :: ts)) = .next { s.midOp ⟨s.seqPc,
      s.cfg.sc.code n ||| k.low.setWidth 8, x, ph, s.trace ++ [e], d, .sequencer :: ts, rest⟩ with seqIssued := true } :=
    step_bus hl rfl rfl rfl
      (complete_scripted (s := s.issued c (.sequencer :: ts)) ha (hdone _ rfl rfl rfl rfl))
  have h3 : step { s.midOp ⟨s.seqPc, s.cfg.sc.code n ||| k.low.setWidth 8, x, ph, s.trace ++ [e], d,
      .sequencer :: ts, rest⟩ with seqIssued := true } = .next ((s.midOp
      ⟨l, s.cfg.sc.code n ||| k.low.setWidth 8, x, ph, s.trace ++ [e], d, ts, rest⟩).passTo l) :=
    step_sequencer hl ho hr rfl
      ((seqStep_prim (s := { s.midOp ⟨s.seqPc, _, x, ph, s.trace ++ [e], d, ts, rest⟩ with seqIssued := true })
        hc hx).trans (prim_pass hl.2 rfl rfl rfl))
  calc Sys2Proof.core.run 3 s
    _ = Sys2Proof.core.run 2 (s.issued c (.bus :: .sequencer :: ts)) := run_succ h1 2
    _ = Sys2Proof.core.run 1 _ := run_succ h2 1
    _ = _ := run_succ h3 0

/-! ### The device's answers to an operation's bytes (R53 to R55, R59) -/

/-- The device as the mode leaves it where the reference device goes to d: untouched in mode ORACLE. -/
def State.remoteDev (d : Device) (s : State) : Device :=
  match s.cfg.mode with
  | .oracle => s.dev
  | .ref => d

theorem State.remoteDev_ref {s : State} (hm : s.cfg.mode = .ref) (d : Device) : s.remoteDev d = d := by
  simp [State.remoteDev, hm]

theorem State.remoteDev_oracle {s : State} (hm : s.cfg.mode = .oracle) (d : Device) : s.remoteDev d = s.dev := by
  simp [State.remoteDev, hm]

/-- R86: the device sees P and goes to d. -/
theorem remoteStop_eq {c : Cause} {s : State} {d : Device} (href : s.cfg.mode = .ref → s.dev.stopCondition c = .ok d)
    (horacle : s.cfg.mode = .oracle → d = s.dev) : s.remoteStop c = .ok { s with dev := d } := by
  unfold State.remoteStop
  cases hm : s.cfg.mode with
  | oracle =>
    obtain rfl := horacle hm
    rfl
  | ref => simp only [href hm]

/-- The write-mode control byte of a. -/
theorem control_controlByte_write (a : LAddr) (c : Cause) (d : Device) :
    d.control c (controlByte a .write) .ack = .ok (.ack, { d with wst := .wAddr, blk := some (a.extractLsb' 8 3) }) := by
  rw [control_write (controlByte_device a .write) (controlByte_direction a .write), controlByte_block]

/-- The read-mode control byte of a, with the pointer at a. -/
theorem control_controlByte_read {a : LAddr} {d : Device} (hp : d.ptr = some (effective a)) (c : Cause) :
    d.control c (controlByte a .read) .ack = .ok (.ack, { d with wst := .rd }) :=
  control_read (controlByte_device a .read) (controlByte_direction a .read) hp
    (by rw [effective_block, controlByte_block])

/-- The word address byte of a, after its control byte. -/
theorem writeByte_wordAddress {a : LAddr} {d : Device} (hw : d.wst = .wAddr) (hb : d.blk = some (a.extractLsb' 8 3))
    (c : Cause) :
    d.writeByte c (wordAddress a) .ack = .ok (.ack, { d with ptr := some (effective a), wst := .wData }) := by
  rw [writeByte_wAddr hw hb, effective_eq_append]

theorem stopCondition_wFull {c : Cause} {d : Device} {ptr : EAddr} {v : Byte} (hw : d.wst = .wFull)
    (hp : d.ptr = some ptr) (hv : d.wpend = some v) :
    d.stopCondition c = .ok { d with mem := Memory.write ptr v d.mem, ptr := none, wpend := none, wst := .idle } := by
  simp [Device.stopCondition, hw, hp, hv]

theorem stopCondition_rd {c : Cause} {d : Device} (hw : d.wst = .rd) :
    d.stopCondition c = .ok { d with wst := .idle } := by
  simp [Device.stopCondition, hw]

/-! ### From one position to the next, in either mode -/

section
variable {op : SeqCmd} {s : State} {l m : SeqPc} {raw : Byte} {x : Option Byte} {tr : List BusEvent} {d : Device}
  {k : BusAnswer} {ts : List Agent} {rest : List BusAnswer} {a : LAddr} {b : Byte}

/-- WB1, RB1: S, from PHASE IDLE. -/
theorem run_start (h : Runs op s) (hp : s.phase = .idle) (ht : s.turns = primTurns ++ ts) (ha : s.answers = k :: rest)
    (hk : cleanAnswer k) (hc : startsAt s = some .start) (hx : expectAt s.seqPc = some (.start, l)) :
    Sys2Proof.core.run 3 s = .next ((s.midOp ⟨l, s.cfg.sc.code .start ||| k.low.setWidth 8, s.data, .addr,
      s.trace ++ [.s], s.remoteDev s.dev.abandon, ts, rest⟩).passTo l) := by
  have hd : (if s.cfg.mode = .ref then s.dev.abandon else s.dev) = s.remoteDev s.dev.abandon := by
    cases hm : s.cfg.mode <;> simp [State.remoteDev, hm]
  refine run_prim h ht ha hc hx (by simp [hp, Pending.cmd, legalIn]) fun v hcfg hphase hdev
    (hdata : v.data = s.data) => ?_
  rw [completion_start hk.1, hcfg, hphase, hdev, if_pos hp, if_pos hp, hd, ← hdata]

/-- RB4: Sr, from PHASE MT. -/
theorem run_repeatedStart (h : Runs op s) (hk : cleanAnswer k) :
    Sys2Proof.core.run 3 (s.midOp ⟨.rb4, raw, x, .mt, tr, s.remoteDev d, primTurns ++ ts, k :: rest⟩) =
      .next (s.midOp ⟨.rb5, s.cfg.sc.code .repeatedStart ||| k.low.setWidth 8, x, .addr, tr ++ [.sr],
        s.remoteDev d.abandon, ts, rest⟩) := by
  have hd : (if s.cfg.mode = .ref then (s.remoteDev d).abandon else s.remoteDev d) = s.remoteDev d.abandon := by
    cases hm : s.cfg.mode <;> simp [State.remoteDev, hm]
  refine run_prim (h.midOp _) rfl rfl rfl rfl rfl fun v (hcfg : v.cfg = s.cfg) (hphase : v.phase = .mt)
    (hdev : v.dev = s.remoteDev d) (hdata : v.data = x) => ?_
  rw [completion_start hk.1, hcfg, hphase, hdev, hd, ← hdata]
  rfl

/-- WB2 to WB4, RB2, RB3, RB5: byte b is acknowledged. -/
theorem run_write {n : StatusName} {ph q : Phase} {e : Device} (h : Runs op s) (hk : cleanAnswer k)
    (hc : startsAt (s.midOp ⟨l, raw, x, ph, tr, s.remoteDev d, primTurns ++ ts, k :: rest⟩) = some (.write b))
    (hx : expectAt l = some (n, m)) (hp : ph = .addr ∨ ph = .mt)
    (hn : writeStatus ph b .ack = n) (hph : writePhase ph b .ack = q)
    (hd : ∀ c, (if ph = .addr then d.control c b .ack else d.writeByte c b .ack) = .ok (.ack, e)) :
    Sys2Proof.core.run 3 (s.midOp ⟨l, raw, x, ph, tr, s.remoteDev d, primTurns ++ ts, k :: rest⟩) =
      .next ((s.midOp ⟨m, s.cfg.sc.code n ||| k.low.setWidth 8, some b, q, tr ++ [.tx b .ack], s.remoteDev e, ts,
        rest⟩).passTo m) := by
  obtain ⟨hberr, hack⟩ := hk
  refine run_prim (h.midOp _) rfl rfl hc hx (legalIn_write hp) fun v (hcfg : v.cfg = s.cfg) (hphase : v.phase = ph)
    (hdev : v.dev = s.remoteDev d) (hdata : v.data = some b) => ?_
  rw [completion_write (r := .ack) (d := s.remoteDev e) hberr, hphase, hn, hph, ← hdata]
  · rw [hcfg, hphase, hdev, hack]
    intro hm
    rw [State.remoteDev_ref hm, State.remoteDev_ref hm]
    exact hd _
  · rw [hcfg, hdev, hack]
    intro hm
    rw [State.remoteDev_oracle hm, State.remoteDev_oracle hm]
    exact ⟨rfl, rfl⟩

/-- WB2, RB2. -/
theorem run_controlWrite (h : Runs op s) (hk : cleanAnswer k) (ha : s.seqAddr = some a)
    (hlm : l = .wb2 ∧ m = .wb3 ∨ l = .rb2 ∧ m = .rb3) :
    Sys2Proof.core.run 3 (s.midOp ⟨l, raw, x, .addr, tr, s.remoteDev d, primTurns ++ ts, k :: rest⟩) =
      .next (s.midOp ⟨m, s.cfg.sc.code .addressAckW ||| k.low.setWidth 8, some (controlByte a .write), .mt,
        tr ++ [.tx (controlByte a .write) .ack],
        s.remoteDev { d with wst := .wAddr, blk := some (a.extractLsb' 8 3) }, ts, rest⟩) := by
  have hdir : (controlByte a .write).extractLsb' 0 1 = 0#1 := controlByte_direction a .write
  obtain ⟨rfl, rfl⟩ | ⟨rfl, rfl⟩ := hlm <;>
    exact run_write h hk (by simp [startsAt, State.midOp, ha]) rfl (.inl rfl) (by simp [writeStatus, hdir]) (by simp [writePhase, hdir])
      fun c => control_controlByte_write a c d

/-- WB3, RB3. -/
theorem run_wordAddress (h : Runs op s) (hk : cleanAnswer k) (ha : s.seqAddr = some a)
    (hlm : l = .wb3 ∧ m = .wb4 ∨ l = .rb3 ∧ m = .rb4) (hw : d.wst = .wAddr) (hb : d.blk = some (a.extractLsb' 8 3)) :
    Sys2Proof.core.run 3 (s.midOp ⟨l, raw, x, .mt, tr, s.remoteDev d, primTurns ++ ts, k :: rest⟩) =
      .next (s.midOp ⟨m, s.cfg.sc.code .dataAck ||| k.low.setWidth 8, some (wordAddress a), .mt,
        tr ++ [.tx (wordAddress a) .ack], s.remoteDev { d with ptr := some (effective a), wst := .wData }, ts,
        rest⟩) := by
  obtain ⟨rfl, rfl⟩ | ⟨rfl, rfl⟩ := hlm <;>
    exact run_write h hk (by simp [startsAt, State.midOp, ha]) rfl (.inr rfl) rfl rfl fun c => writeByte_wordAddress hw hb c

/-- WB4. -/
theorem run_dataByte (h : Runs op s) (hk : cleanAnswer k) (hv : s.seqData = some b) (hw : d.wst = .wData) :
    Sys2Proof.core.run 3 (s.midOp ⟨.wb4, raw, x, .mt, tr, s.remoteDev d, primTurns ++ ts, k :: rest⟩) =
      .next (s.midOp ⟨.wb5, s.cfg.sc.code .dataAck ||| k.low.setWidth 8, some b, .mt, tr ++ [.tx b .ack],
        s.remoteDev { d with wpend := some b, wst := .wFull }, ts, rest⟩) :=
  run_write h hk (by simp [startsAt, State.midOp, hv]) rfl (.inr rfl) rfl rfl fun _ => writeByte_wData hw

/-- RB5. -/
theorem run_controlRead (h : Runs op s) (hk : cleanAnswer k) (ha : s.seqAddr = some a)
    (hp : d.ptr = some (effective a)) :
    Sys2Proof.core.run 3 (s.midOp ⟨.rb5, raw, x, .addr, tr, s.remoteDev d, primTurns ++ ts, k :: rest⟩) =
      .next (s.midOp ⟨.rb6, s.cfg.sc.code .addressAckR ||| k.low.setWidth 8, some (controlByte a .read), .mr,
        tr ++ [.tx (controlByte a .read) .ack], s.remoteDev { d with wst := .rd }, ts, rest⟩) := by
  have hdir : (controlByte a .read).extractLsb' 0 1 = 1#1 := controlByte_direction a .read
  exact run_write h hk (by simp [startsAt, State.midOp, ha]) rfl (.inl rfl) (by simp [writeStatus, hdir]) (by simp [writePhase, hdir])
    fun c => control_controlByte_read hp c

/-- RB6: byte b is the one at the device's pointer in mode REF, the drawn one in mode ORACLE. It goes to SEQ_RD. -/
theorem run_readNack {ptr : EAddr} (h : Runs op s) (hk : cleanAnswer k) (hw : d.wst = .rd) (hp : d.ptr = some ptr)
    (href : s.cfg.mode = .ref → b = Memory.read ptr d.mem) (horacle : s.cfg.mode = .oracle → b = k.rx) :
    Sys2Proof.core.run 3 (s.midOp ⟨.rb6, raw, x, .mr, tr, s.remoteDev d, primTurns ++ ts, k :: rest⟩) =
      .next (State.midOp ⟨.rb7, s.cfg.sc.code .dataNack ||| k.low.setWidth 8, some b, .hold, tr ++ [.rx b .nack],
        State.remoteDev { d with ptr := some (ptr + 1#11) } { s with seqRd := some b }, ts, rest⟩
        { s with seqRd := some b }) := by
  refine run_prim (d := s.remoteDev { d with ptr := some (ptr + 1#11) }) (h.midOp _) rfl rfl rfl rfl rfl
    fun v (hcfg : v.cfg = s.cfg) _ (hdev : v.dev = s.remoteDev d) _ => completion_readNack hk.1 ?_ ?_
  · rw [hcfg, hdev]
    intro hm
    rw [State.remoteDev_ref hm, State.remoteDev_ref hm, href hm]
    exact send_rd hw hp
  · rw [hcfg, hdev]
    intro hm
    rw [State.remoteDev_oracle hm, State.remoteDev_oracle hm]
    exact ⟨horacle hm, rfl⟩

/-- WB5, RB7: P, with no check. -/
theorem step_primStop {ph : Phase} {e : Device} (h : Runs op s)
    (hlm : l = .wb5 ∧ m = .wb6 ∧ ph = .mt ∨ l = .rb7 ∧ m = .rb8 ∧ ph = .hold) (hd : ∀ c, d.stopCondition c = .ok e) :
    step (s.midOp ⟨l, raw, x, ph, tr, s.remoteDev d, .sequencer :: ts, rest⟩) =
      .next ((s.midOp ⟨m, raw, x, ph, tr, s.remoteDev e, ts, rest⟩).stopEngine) := by
  have hlegal : legalIn .stop ph = true := by
    obtain ⟨-, -, rfl⟩ | ⟨-, -, rfl⟩ := hlm <;> rfl
  have hf : issueFault .stop (s.midOp ⟨l, raw, x, ph, tr, s.remoteDev d, ts, rest⟩) = none :=
    (issueFault_none (by simp)).mpr ⟨h.enabled, rfl, hlegal⟩
  have hstop : (s.midOp ⟨l, raw, x, ph, tr, s.remoteDev d, ts, rest⟩).stopEngine.remoteStop
      (.command (encodeEngine .stop)) =
      .ok (s.midOp ⟨l, raw, x, ph, tr, s.remoteDev e, ts, rest⟩).stopEngine := by
    refine remoteStop_eq (d := s.remoteDev e) (fun (hm : s.cfg.mode = .ref) => ?_) (fun (hm : s.cfg.mode = .oracle) => ?_)
    · exact (congrArg _ (State.remoteDev_ref hm d)).trans ((hd _).trans (by rw [State.remoteDev_ref hm]))
    · exact (State.remoteDev_oracle hm e).trans (State.remoteDev_oracle hm d).symm
  have hprim : primStop m (s.midOp ⟨l, raw, x, ph, tr, s.remoteDev d, ts, rest⟩) =
      .ok (s.midOp ⟨m, raw, x, ph, tr, s.remoteDev e, ts, rest⟩).stopEngine := by
    rw [primStop, issue, hf, issueEffect, hstop]
    rfl
  refine step_sequencer h.live h.op h.running rfl ?_
  obtain ⟨rfl, rfl, -⟩ | ⟨rfl, rfl, -⟩ := hlm <;> exact hprim

end

section
variable {op : SeqCmd} {s t : State} {l : SeqPc} {raw : Byte} {x : Option Byte} {ph : Phase} {tr : List BusEvent}
  {d : Device} {ts : List Agent} {rest : List BusAnswer}

/-- WB6, RB8: the micro-program ends in Success (R96). -/
theorem step_finishByte (h : Runs op s) (hl : l = .wb6 ∨ l = .rb8)
    (ht : finishByte op .success (s.midOp ⟨l, raw, x, ph, tr, d, ts, rest⟩).stopEngine = .ok t) :
    step (s.midOp ⟨l, raw, x, ph, tr, d, .sequencer :: ts, rest⟩).stopEngine = .next t := by
  refine step_sequencer h.live h.op h.running rfl ?_
  obtain rfl | rfl := hl <;> exact ht

end

/-! ### Whole operations (R97, R98) -/

/-- R94: the issue of a sequencer command. -/
theorem exec_sequencer {c : SeqCmd} {s : State} (h : s.canCommand) :
    exec (Command.sequencer c).toInstr s = .next ((s.beginOp c).loadOp c) := by
  obtain ⟨hl, he, hb, hr⟩ := h
  exact (exec_pwCmd_encodeCommand (.sequencer c) s).symm.trans (pwCmd_sequencer hl hr he hb)

theorem runs_loadOp {s : State} (c : SeqCmd) (h : s.canCommand) : Runs c ((s.beginOp c).loadOp c) := by
  obtain ⟨hl, he, hb, -⟩ := h
  cases c <;> exact ⟨hl, rfl, rfl, he, hb, rfl⟩

/-- R53 to R55: the reference device after a whole write of v at a. -/
def Device.written (a : LAddr) (v : Byte) (d : Device) : Device where
  mem := Memory.write (effective a) v d.mem
  ptr := none
  blk := some (a.extractLsb' 8 3)
  wst := .idle
  wpend := none

/-- R53 to R57: the reference device after a whole read at a. -/
def Device.readAt (a : LAddr) (d : Device) : Device where
  mem := d.mem
  ptr := some (effective a + 1#11)
  blk := some (a.extractLsb' 8 3)
  wst := .idle
  wpend := none

/-- R97: the state after EE_WRITE_BYTE a, v in Success, with the turns ts and the answers rest to come. -/
def State.afterWriteByte (a : LAddr) (v : Byte) (ts : List Agent) (rest : List BusAnswer) (s : State) : State :=
  { s with
    trace := s.trace ++ [.s, .tx (controlByte a .write) .ack, .tx (wordAddress a) .ack, .tx v .ack, .p],
    phase := .idle, ready := false, busy := false, pend := none, statusRaw := none, data := some v,
    seqOp := none, seqPc := .idle, seqIssued := false, seqReady := true, seqAddr := some a, seqData := some v,
    seqR := some .success, result := some .success,
    dev := s.remoteDev (s.dev.written a v), turns := ts, answers := rest }

/-- R98: the state after EE_READ_BYTE a in Success with byte v. -/
def State.afterReadByte (a : LAddr) (v : Byte) (ts : List Agent) (rest : List BusAnswer) (s : State) : State :=
  { s with
    trace := s.trace ++ [.s, .tx (controlByte a .write) .ack, .tx (wordAddress a) .ack, .sr,
      .tx (controlByte a .read) .ack, .rx v .nack, .p],
    phase := .idle, ready := false, busy := false, pend := none, statusRaw := none, data := some v,
    seqOp := none, seqPc := .idle, seqIssued := false, seqReady := true, seqAddr := some a, seqRd := some v,
    seqR := some .success, result := some .success, rdata := some v,
    dev := s.remoteDev (s.dev.readAt a), turns := ts, answers := rest }

section
variable {s : State} {a : LAddr} {v : Byte} {ts : List Agent} {k1 k2 k3 k4 k5 k6 : BusAnswer} {rest : List BusAnswer}

/-- R97, W4: the fourteen steps of EE_WRITE_BYTE after its issue. -/
theorem run_writeByte (hc : s.canCommand) (hp : s.phase = .idle) (ht : s.turns = writeTurns ++ ts)
    (hk : s.answers = k1 :: k2 :: k3 :: k4 :: rest) (h1 : cleanAnswer k1) (h2 : cleanAnswer k2) (h3 : cleanAnswer k3)
    (h4 : cleanAnswer k4) :
    Sys2Proof.core.run 14 ((s.beginOp (.writeByte a v)).loadOp (.writeByte a v)) =
      .next (s.afterWriteByte a v ts rest) := by
  have h := runs_loadOp (.writeByte a v) hc
  calc Sys2Proof.core.run 14 ((s.beginOp (.writeByte a v)).loadOp (.writeByte a v))
    _ = Sys2Proof.core.run 11 _ := run_add (run_start (l := .wb2) h hp ht hk h1 rfl rfl) 11
    _ = Sys2Proof.core.run 8 _ := run_add (run_controlWrite h h2 rfl (.inl ⟨rfl, rfl⟩)) 8
    _ = Sys2Proof.core.run 5 _ := run_add (run_wordAddress h h3 rfl (.inl ⟨rfl, rfl⟩) rfl rfl) 5
    _ = Sys2Proof.core.run 2 _ := run_add (run_dataByte h h4 rfl rfl) 2
    _ = Sys2Proof.core.run 1 _ :=
      run_succ (step_primStop h (.inl ⟨rfl, rfl, rfl⟩) fun _ => stopCondition_wFull rfl rfl rfl) 1
    _ = Sys2Proof.core.run 0 _ := run_succ (step_finishByte h (.inl rfl) rfl) 0
    _ = .next _ := rfl
    _ = .next (s.afterWriteByte a v ts rest) := by
      simp [State.afterWriteByte, State.loadOp, State.beginOp, State.endOp, State.stopEngine, State.emit, State.midOp,
        State.remoteDev, Device.written, Device.abandon]

/-- R98: the twenty steps of EE_READ_BYTE after its issue. -/
theorem run_readByte (hc : s.canCommand) (hp : s.phase = .idle) (ht : s.turns = readTurns ++ ts)
    (hk : s.answers = k1 :: k2 :: k3 :: k4 :: k5 :: k6 :: rest) (h1 : cleanAnswer k1) (h2 : cleanAnswer k2)
    (h3 : cleanAnswer k3) (h4 : cleanAnswer k4) (h5 : cleanAnswer k5) (h6 : cleanAnswer k6)
    (href : s.cfg.mode = .ref → v = Memory.read (effective a) s.dev.mem) (horacle : s.cfg.mode = .oracle → v = k6.rx) :
    Sys2Proof.core.run 20 ((s.beginOp (.readByte a)).loadOp (.readByte a)) = .next (s.afterReadByte a v ts rest) := by
  have h := runs_loadOp (.readByte a) hc
  have hv : Runs (.readByte a) { (s.beginOp (.readByte a)).loadOp (.readByte a) with seqRd := some v } :=
    ⟨h.live, rfl, rfl, h.enabled, h.idle, rfl⟩
  -- At RB6 href and horacle are given by tactic, so that Lean compares them once the position before the step is known.
  calc Sys2Proof.core.run 20 ((s.beginOp (.readByte a)).loadOp (.readByte a))
    _ = Sys2Proof.core.run 17 _ := run_add (run_start (l := .rb2) h hp ht hk h1 rfl rfl) 17
    _ = Sys2Proof.core.run 14 _ := run_add (run_controlWrite h h2 rfl (.inr ⟨rfl, rfl⟩)) 14
    _ = Sys2Proof.core.run 11 _ := run_add (run_wordAddress h h3 rfl (.inr ⟨rfl, rfl⟩) rfl rfl) 11
    _ = Sys2Proof.core.run 8 _ := run_add (run_repeatedStart h h4) 8
    _ = Sys2Proof.core.run 5 _ := run_add (run_controlRead h h5 rfl rfl) 5
    _ = Sys2Proof.core.run 2 _ :=
      run_add (run_readNack (ptr := effective a) h h6 rfl rfl (by exact href) (by exact horacle)) 2
    _ = Sys2Proof.core.run 1 _ :=
      run_succ (step_primStop hv (.inr ⟨rfl, rfl, rfl⟩) fun _ => stopCondition_rd rfl) 1
    _ = Sys2Proof.core.run 0 _ := run_succ (step_finishByte hv (.inr rfl) rfl) 0
    _ = .next _ := rfl
    _ = .next (s.afterReadByte a v ts rest) := by
      simp [State.afterReadByte, State.loadOp, State.beginOp, State.endOp, State.stopEngine, State.emit, State.midOp,
        State.remoteDev, Device.readAt, Device.abandon]

end

/-! ### A read after a write (W6) -/

/-- R42, R55: what is read at b after v was written at a. -/
theorem read_written (a b : LAddr) (v : Byte) {d : Device} (hw : Memory.wf d.mem = true) :
    Memory.read (effective b) (d.written a v).mem =
      if effective a = effective b then v else Memory.read (effective b) d.mem := by
  by_cases h : effective a = effective b
  · rw [if_pos h, ← h]
    exact Memory.read_write_same _ v hw
  · rw [if_neg h]
    exact Memory.read_write_other (Ne.symm h) v _

/-- The ten answers of W6, by name. -/
theorem exists_ten_of_length {ks : List BusAnswer} (h : ks.length = 10) :
    ∃ k1 k2 k3 k4 k5 k6 k7 k8 k9 k10, ks = [k1, k2, k3, k4, k5, k6, k7, k8, k9, k10] :=
  match ks, h with
  | [k1, k2, k3, k4, k5, k6, k7, k8, k9, k10], _ => ⟨k1, k2, k3, k4, k5, k6, k7, k8, k9, k10, rfl⟩

/-- Settles O44: `run_readByte` on the state that `run_writeByte` gives, whose memory `read_written` reads. -/
theorem writeThenReadRoundTrips : Obligations.WriteThenReadRoundTrips := by
  intro a b v s ts clean rest hc hp hm hw ht hk hlen hclean
  obtain ⟨k1, k2, k3, k4, k5, k6, k7, k8, k9, k10, rfl⟩ := exists_ten_of_length hlen
  simp only [List.forall_mem_cons] at hclean
  obtain ⟨h1, h2, h3, h4, h5, h6, h7, h8, h9, h10, -⟩ := hclean
  have hwritten : (s.afterWriteByte a v (readTurns ++ ts) ([k5, k6, k7, k8, k9, k10] ++ rest)).canCommand :=
    ⟨hc.1, hc.2.1, rfl, rfl⟩
  have hread : Memory.read (effective b)
      (s.afterWriteByte a v (readTurns ++ ts) ([k5, k6, k7, k8, k9, k10] ++ rest)).dev.mem =
      if effective a = effective b then v else Memory.read (effective b) s.dev.mem := by
    rw [State.afterWriteByte, State.remoteDev_ref hm, read_written a b v hw]
  refine ⟨_, _, _, _, exec_sequencer (c := .writeByte a v) hc, run_writeByte hc hp ht hk h1 h2 h3 h4,
    exec_sequencer (c := .readByte b) hwritten,
    run_readByte hwritten rfl rfl rfl h5 h6 h7 h8 h9 h10 (fun _ => hread.symm)
      (fun ho : s.cfg.mode = .oracle => by simp [hm] at ho), rfl, rfl, ?_⟩
  by_cases h : effective a = effective b <;> simp [State.afterReadByte, h]

end Sys2Proof.Machine
end

section
/-! Proofs for the statements of spec/30_encoding.md: the round trips of the encoder and the decoder (R65 to R69, R76). -/

namespace Sys2Proof

/-! ### Commands (R65 to R67) -/

theorem encode_toInstr (c : Command) : encode c.toInstr = .command (encodeCommand c) := by
  cases c with
  | engine c => cases c <;> rfl
  | sequencer c => cases c <;> rfl

theorem decode_encode_toInstr (c : Command) : decode (encode c.toInstr) = .ok c.toInstr := by
  simp [encode_toInstr, decode, decodeCommand, readCommand_encodeCommand]

/-! ### Ports of BUF (R16, R69) -/

theorem bufPort_toNat (i : Byte) : (bufPort i).toNat = 0x100 + i.toNat :=
  append_toNat 1#1 i

theorem bufPort_index (i : Byte) : (bufPort i).extractLsb' 0 8 = i := by
  apply BitVec.eq_of_toNat_eq
  rw [BitVec.extractLsb'_toNat, Nat.shiftRight_zero, bufPort_toNat, Nat.add_mod_left, Nat.mod_eq_of_lt i.isLt]

theorem bufPort_ne {p : Port} (i : Byte) (hp : p.toNat < 0x100) : bufPort i ≠ p := by
  rintro rfl
  rw [bufPort_toNat] at hp
  omega

/-- R91: a read of a BUF port decodes to the read of that element. -/
theorem decodePortRead_bufPort (i : Byte) : decodePortRead (bufPort i) = .ok (.prBuf i) := by
  simp [decodePortRead, bufPort_ne, bufPort_toNat, bufPort_index]

/-- R92: a write of a BUF port decodes to the write of that element. -/
theorem decodePortWrite_bufPort (i : Byte) (v : Word) : decodePortWrite (bufPort i) v = .ok (.pwBuf i v) := by
  simp [decodePortWrite, bufPort_ne, bufPort_toNat, bufPort_index]

/-- Settles O1: command words by `readCommand_encodeCommand`, ports of BUF by their index; the other ports are literals. -/
theorem decodeOfEncodeIsTheInstruction : Obligations.DecodeOfEncodeIsTheInstruction := by
  intro i
  cases i with
  | init d o => exact decode_encode_toInstr (.engine (.init d o))
  | start => exact decode_encode_toInstr (.engine .start)
  | stop => exact decode_encode_toInstr (.engine .stop)
  | write b => exact decode_encode_toInstr (.engine (.write b))
  | readAck => exact decode_encode_toInstr (.engine .readAck)
  | readNack => exact decode_encode_toInstr (.engine .readNack)
  | eeWriteByte a d => exact decode_encode_toInstr (.sequencer (.writeByte a d))
  | eeReadByte a => exact decode_encode_toInstr (.sequencer (.readByte a))
  | eeWriteArray a n => exact decode_encode_toInstr (.sequencer (.writeArray a n))
  | eeReadArray a n => exact decode_encode_toInstr (.sequencer (.readArray a n))
  | prBuf i => exact decodePortRead_bufPort i
  | pwBuf i v => exact decodePortWrite_bufPort i v
  | _ => rfl

/-! ### Table words (R69, log entry 18) -/

theorem pattern_toNat (dir : BitVec 1) (p : Port) : (dir ++ p : BitVec 10).toNat = dir.toNat * 2 ^ 9 + p.toNat :=
  append_toNat dir p

/-- R69: bit 9 of a pattern says which way the value goes, and bits 8..0 the port. -/
theorem ofPattern_append (dir : BitVec 1) (p : Port) (v : Word) :
    Transfer.ofPattern (dir ++ p) v = if dir = 1#1 then .portWrite p v else .portRead p := by
  have hdir : (dir ++ p : BitVec 10).extractLsb' 9 1 = dir := BitVec.extractLsb'_append_eq_left
  have hport : (dir ++ p : BitVec 10).extractLsb' 0 9 = p := BitVec.extractLsb'_append_eq_right
  rw [Transfer.ofPattern, hdir, hport]

/-- A transaction's table bits: its pattern in bits 9..0, its value in bits 47..16 (log entry 18). -/
theorem tableTransfer_pattern {nbits : Nat} (hn : ¬ (16 < nbits ∧ nbits ≤ 32)) (pattern : BitVec 10) (v : Word) :
    tableTransfer nbits (v.toNat * 2 ^ 16 + pattern.toNat) = some (Transfer.ofPattern pattern v) := by
  have hv := v.isLt
  have hp := pattern.isLt
  have hlow : (v.toNat * 2 ^ 16 + pattern.toNat) % 2 ^ 16 = pattern.toNat := by omega
  have hhigh : (v.toNat * 2 ^ 16 + pattern.toNat) / 2 ^ 16 = v.toNat := by omega
  rw [tableTransfer, if_neg hn, hlow, hhigh, if_pos (by omega), BitVec.ofNat_toNat, BitVec.ofNat_toNat,
    BitVec.setWidth_eq, BitVec.setWidth_eq]

theorem tableTransfer_tableWord (x : Transfer) : tableTransfer (tableWord x).1 (tableWord x).2 = some x := by
  cases x with
  | command w => simp [tableTransfer, tableWord, w.isLt]
  | portRead p =>
    have h := tableTransfer_pattern (nbits := 16) (by omega) (0#1 ++ p) 0#32
    simpa [tableWord, pattern_toNat, ofPattern_append] using h
  | portWrite p v =>
    have h := tableTransfer_pattern (nbits := 48) (by omega) (1#1 ++ p) v
    simpa [tableWord, pattern_toNat, ofPattern_append] using h

theorem decodeTableWord_tableWord {x : Transfer} {i : Instr} (h : decode x = .ok i) :
    decodeTableWord (tableWord x).1 (tableWord x).2 = some i := by
  simp [decodeTableWord, tableTransfer_tableWord, h]

/-- Settles O2: a transfer's bits give it back, and it decodes to the instruction by O1. -/
theorem tableWordOfInstructionDecodesToIt : Obligations.TableWordOfInstructionDecodesToIt :=
  fun i => decodeTableWord_tableWord (decodeOfEncodeIsTheInstruction i)

/-- Settles O4: each of the eight words by evaluation. -/
theorem writtenOutWordsDecode : Obligations.WrittenOutWordsDecode := by
  unfold Obligations.WrittenOutWordsDecode
  decide

end Sys2Proof
end

section
/-! Proofs for the statements of spec/30_encoding.md: every command word decodes or is reserved (R66 to R68, R76).

The two descriptions of the command words, `readCommand` by opcode and `commandRows` by mask and match, are each tied to the
encoder: a word that reads as c is c's word (`encodeCommand_of_readCommand`), and the words that match a row are the words of
the commands (`assignedWord_iff`). -/

namespace Sys2Proof

/-! ### A word from its fields (R66) -/

/-- Formats B, A, AD and AN: opcode, middle 16 bits, low byte. -/
theorem word_of_fields_eq {w : Word} {op d : Byte} {a : LAddr} (hop : opcodeOf w = op) (ha : fieldAddr w = a)
    (hd : field7to0 w = d) : op ++ a ++ d = w := by
  rw [← hop, ← ha, ← hd, word_of_fields]

/-- Format N: the 24 bits below the opcode are zero. -/
theorem formatN_of_fields {w : Word} {op : Byte} (hop : opcodeOf w = op) (hz : w.extractLsb' 0 24 = 0#24) :
    op ++ 0x000000#24 = w := by
  rw [← hop, ← hz]
  exact (BitVec.extractLsb'_append_extractLsb'_eq_extractLsb' rfl).trans BitVec.extractLsb'_eq_self

/-- Format I: the byte below the opcode is zero. -/
theorem formatI_of_fields {w : Word} {op : Byte} (hop : opcodeOf w = op) (hz : field23to16 w = 0#8) :
    op ++ 0x00#8 ++ field15to8 w ++ field7to0 w = w := by
  have ha : field23to16 w ++ field15to8 w = fieldAddr w := BitVec.extractLsb'_append_extractLsb'_eq_extractLsb' rfl
  rw [formatI_word, ← hz]
  exact word_of_fields_eq hop ha.symm rfl

/-! ### Reading, then encoding -/

theorem encodeCommand_of_ifZero {zero : Bool} {w : Word} {c d : Command} (h : ifZero zero w d = .ok c)
    (hd : zero = true → encodeCommand d = w) : encodeCommand c = w := by
  unfold ifZero at h
  split at h
  · next hz => exact Except.ok.inj h ▸ hd hz
  · cases h

/-- R76: a word decodes to nothing but the command it encodes. -/
theorem encodeCommand_of_readCommand {w : Word} {c : Command} (h : readCommand w = .ok c) : encodeCommand c = w := by
  unfold readCommand at h
  split at h
  · next hop => exact encodeCommand_of_ifZero h fun hz => formatI_of_fields hop (eq_of_beq hz)
  split at h
  · next hop => exact encodeCommand_of_ifZero h fun hz => formatN_of_fields hop (eq_of_beq hz)
  split at h
  · next hop => exact encodeCommand_of_ifZero h fun hz => formatN_of_fields hop (eq_of_beq hz)
  split at h
  · next hop => exact encodeCommand_of_ifZero h fun hz => word_of_fields_eq hop (eq_of_beq hz) rfl
  split at h
  · next hop => exact encodeCommand_of_ifZero h fun hz => formatN_of_fields hop (eq_of_beq hz)
  split at h
  · next hop => exact encodeCommand_of_ifZero h fun hz => formatN_of_fields hop (eq_of_beq hz)
  split at h
  · next hop => exact Except.ok.inj h ▸ word_of_fields_eq hop rfl rfl
  split at h
  · next hop => exact encodeCommand_of_ifZero h fun hz => word_of_fields_eq hop rfl (eq_of_beq hz)
  split at h
  · next hop => exact Except.ok.inj h ▸ word_of_fields_eq hop rfl rfl
  split at h
  · next hop => exact Except.ok.inj h ▸ word_of_fields_eq hop rfl rfl
  cases h

/-! ### The mask and match table (R66, R67) -/

/-- A field that a row fixes holds the row's bits in every word that matches the row. -/
theorem field_of_rowMatches {w : Word} {r : Word × Word} (h : rowMatches w r = true) (start len : Nat)
    (hk : r.2.extractLsb' start len = BitVec.allOnes len) : w.extractLsb' start len = r.1.extractLsb' start len := by
  rw [← eq_of_beq h, BitVec.extractLsb'_and, hk, BitVec.and_allOnes]

/-- Every row fixes the opcode. -/
theorem opcode_mask_of_row {r : Word × Word} (hr : r ∈ commandRows) : r.2.extractLsb' 24 8 = BitVec.allOnes 8 := by
  have h : commandRows.all (fun r => r.2.extractLsb' 24 8 == BitVec.allOnes 8) = true := by decide
  exact eq_of_beq (List.all_eq_true.mp h r hr)

theorem opcodeOf_of_rowMatches {w : Word} {r : Word × Word} (hr : r ∈ commandRows) (h : rowMatches w r = true) :
    opcodeOf w = opcodeOf r.1 :=
  field_of_rowMatches h 24 8 (opcode_mask_of_row hr)

/-- R67: no two rows have one opcode. -/
theorem row_eq_of_opcodeOf {r q : Word × Word} (hr : r ∈ commandRows) (hq : q ∈ commandRows)
    (h : opcodeOf r.1 = opcodeOf q.1) : r = q :=
  List.inj_on_of_nodup_map (f := fun r : Word × Word => opcodeOf r.1) (by decide) hr hq h

open Laws.TableRow in
/-- The word of a command has the fixed bits of the command's row. -/
theorem rowMatches_encodeCommand (c : Command) : rowMatches (encodeCommand c) (row c.toInstr) = true := by
  match c with
  | .engine (.init d o) => exact init d o
  | .engine .start => exact start
  | .engine .stop => exact stop
  | .engine (.write b) => exact write b
  | .engine .readAck => exact readAck
  | .engine .readNack => exact readNack
  | .sequencer (.writeByte a d) => exact eeWriteByte a d
  | .sequencer (.readByte a) => exact eeReadByte a
  | .sequencer (.writeArray a n) => exact eeWriteArray a n
  | .sequencer (.readArray a n) => exact eeReadArray a n

open Laws.TableRow in
theorem row_mem_commandRows (c : Command) : row c.toInstr ∈ commandRows := by
  cases c with
  | engine c => cases c <;> simp [row, Command.toInstr, commandRows]
  | sequencer c => cases c <;> simp [row, Command.toInstr, commandRows]

/-- A word that matches a row is the word of a command: what the row does not fix are the command's operands. -/
theorem exists_encodeCommand_of_rowMatches {w : Word} {r : Word × Word} (hr : r ∈ commandRows)
    (h : rowMatches w r = true) : ∃ c, encodeCommand c = w := by
  have hop := opcodeOf_of_rowMatches hr h
  have hfield := field_of_rowMatches h
  simp only [commandRows, List.mem_cons, List.not_mem_nil, or_false] at hr
  obtain rfl | rfl | rfl | rfl | rfl | rfl | rfl | rfl | rfl | rfl := hr
  · exact ⟨.engine (.init _ _), formatI_of_fields hop (hfield 16 8 rfl)⟩
  · exact ⟨.engine .start, formatN_of_fields hop (hfield 0 24 rfl)⟩
  · exact ⟨.engine .stop, formatN_of_fields hop (hfield 0 24 rfl)⟩
  · exact ⟨.engine (.write _), word_of_fields_eq hop (hfield 8 16 rfl) rfl⟩
  · exact ⟨.engine .readAck, formatN_of_fields hop (hfield 0 24 rfl)⟩
  · exact ⟨.engine .readNack, formatN_of_fields hop (hfield 0 24 rfl)⟩
  · exact ⟨.sequencer (.writeByte _ _), word_of_fields_eq hop rfl rfl⟩
  · exact ⟨.sequencer (.readByte _), word_of_fields_eq hop rfl (hfield 0 8 rfl)⟩
  · exact ⟨.sequencer (.writeArray _ _), word_of_fields_eq hop rfl rfl⟩
  · exact ⟨.sequencer (.readArray _ _), word_of_fields_eq hop rfl rfl⟩

/-- R66 to R68: the words of the mask and match table are the words of the commands. -/
theorem assignedWord_iff {w : Word} : assignedWord w = true ↔ ∃ c, encodeCommand c = w := by
  constructor
  · intro h
    obtain ⟨r, hr, hm⟩ := List.any_eq_true.mp h
    exact exists_encodeCommand_of_rowMatches hr hm
  · rintro ⟨c, rfl⟩
    exact List.any_eq_true.mpr ⟨_, row_mem_commandRows c, rowMatches_encodeCommand c⟩

/-- Settles O3: both the decoder and the table accept exactly the words of the commands, and a row is known by its opcode. -/
theorem everyCommandWordDecodesOrIsReserved : Obligations.EveryCommandWordDecodesOrIsReserved := by
  refine ⟨fun w => ?_, fun w r q hr hq hwr hwq => row_eq_of_opcodeOf hr hq ?_⟩
  · cases h : readCommand w with
    | ok c =>
      have hc := encodeCommand_of_readCommand h
      exact .inl ⟨assignedWord_iff.mpr ⟨c, hc⟩, c, rfl, hc⟩
    | error e =>
      refine .inr ⟨Bool.eq_false_iff.mpr fun ha => ?_, by rw [readCommand_error h]⟩
      obtain ⟨c, rfl⟩ := assignedWord_iff.mp ha
      rw [readCommand_encodeCommand] at h
      cases h
  · rw [← opcodeOf_of_rowMatches hr hwr, opcodeOf_of_rowMatches hq hwq]

end Sys2Proof
end

section
/-! Proofs for the statements of spec/30_encoding.md: the host's lines (R69, R77) and the status table (R74). -/

namespace Sys2Proof

/-! ### The status table (R74) -/

theorem StatusName.mem_all (n : StatusName) : n ∈ StatusName.all := by cases n <;> decide

/-- R74: a legal table has no low bit set and no two equal codes. -/
theorem StatusTable.legal_iff {sc : StatusTable} :
    sc.legal = true ↔ (∀ n, sc.code n &&& 0x07#8 = 0#8) ∧ Function.Injective sc.code := by
  have hlow : StatusName.all.all (fun n => sc.code n &&& 0x07#8 == 0#8) = true ↔ ∀ n, sc.code n &&& 0x07#8 = 0#8 := by
    simp [StatusName.mem_all]
  have hdistinct : (StatusName.all.map sc.code).Nodup ↔ Function.Injective sc.code :=
    ⟨fun h m n => List.inj_on_of_nodup_map h m.mem_all n.mem_all, fun h => List.Nodup.map h (by decide)⟩
  rw [StatusTable.legal, Bool.and_eq_true, decide_eq_true_eq, hlow, hdistinct]

namespace Machine

/-- Settles O53: such a table is not legal, and the step stops at that. -/
theorem badStatusTableIsRefused : Obligations.BadStatusTableIsRefused := by
  intro s hf hbad
  have hl : ¬ s.cfg.sc.legal = true := by
    rw [StatusTable.legal_iff]
    rintro ⟨hlow, hinj⟩
    obtain ⟨n, hn⟩ | ⟨m, n, hmn, he⟩ := hbad
    · exact hn (hlow n)
    · exact hmn (hinj he)
  have hstop : stopped s = some (.next (s.raise (.refusal .configUnmodelled))) := by
    simp [stopped, hf, hl]
  rw [step, machineStep, hstop]

/-! ### A line of the host (R69, R77) -/

theorem perform_ok {x : Transfer} {i : Instr} (h : decode x = .ok i) (s : State) : perform x s = exec i s := by
  rw [perform, h]

theorem hostTurn_xfer {x : Transfer} {rest : List HostLine} {s : State} (h : s.host = .xfer x :: rest) :
    hostTurn s = perform x { s with host := rest } := by
  rw [hostTurn, h]

theorem hostTurn_wait {p : Port} {v : Word} {rest : List HostLine} {s : State} (h : s.host = .wait p v :: rest) :
    hostTurn s = afterPoll v rest (perform (.portRead p) s) := by
  rw [hostTurn, h]

theorem step_xfer {x : Transfer} {i : Instr} {rest : List HostLine} {turns : List Agent} {s : State} (hl : s.live)
    (ht : s.turns = .host :: turns) (hh : s.host = .xfer x :: rest) (hx : decode x = .ok i) :
    step s = exec i { s with turns := turns, host := rest } := by
  rw [step_of_turn hl ht, agentTurn, hostTurn_xfer (s := { s with turns := turns }) hh, perform_ok hx]

theorem decodeTableWord_some {nbits w : Nat} {i : Instr} (h : decodeTableWord nbits w = some i) :
    ∃ x, tableTransfer nbits w = some x ∧ decode x = .ok i := by
  unfold decodeTableWord at h
  split at h
  · cases h
  · next x hx =>
    split at h
    · next hd => exact ⟨x, hx, by rw [hd, Option.some.inj h]⟩
    · cases h

theorem withFetchWord_some {nbits w : Nat} {x : Transfer} (h : tableTransfer nbits w = some x) (s : State) :
    s.withFetchWord nbits w = s.offer x := by
  rw [State.withFetchWord, State.offerWord, h]

/-- Settles O49: an offered transfer is the next line, and running it leaves the lines and turns before the offer. -/
theorem stepRunsTheDecodedInstruction : Obligations.StepRunsTheDecodedInstruction := by
  refine ⟨fun x i rest turns s => step_xfer, fun nbits w i s hl h => ?_⟩
  obtain ⟨x, hx, hd⟩ := decodeTableWord_some h
  rw [withFetchWord_some hx]
  exact step_xfer (s := s.offer x) hl rfl rfl hd

/-! ### WAIT (R77) -/

theorem afterPoll_done {v : Word} {rest : List HostLine} {t : State} (hf : t.faulted = none)
    (hv : t.lastRead = some v) : afterPoll v rest (.next t) = .next { t with host := rest } := by
  simp [afterPoll, hf, hv]

theorem afterPoll_stays {v : Word} {rest : List HostLine} {t : State} (h : t.faulted ≠ none ∨ t.lastRead ≠ some v) :
    afterPoll v rest (.next t) = .next t :=
  if_neg (by tauto)

theorem lastRead_deliver (p : Port) (v : Word) (s : State) : (s.deliver p v).lastRead = some v := by
  simp [State.lastRead]

/-- R77: a poll whose read returns x ends the wait if x is the value waited for. -/
theorem hostTurn_poll {p : Port} {v x : Word} {rest : List HostLine} {s : State} (hl : s.live)
    (hh : s.host = .wait p v :: rest) (hp : perform (.portRead p) s = .next (s.deliver p x)) :
    (x = v → hostTurn s = .next { s with host := rest, hostReads := s.hostReads ++ [(p, v)] }) ∧
    (x ≠ v → hostTurn s = .next { s with hostReads := s.hostReads ++ [(p, x)] }) := by
  rw [hostTurn_wait hh, hp]
  constructor
  · rintro rfl
    exact afterPoll_done hl.1 (lastRead_deliver p x s)
  · intro hx
    exact afterPoll_stays (.inr (by simpa [lastRead_deliver] using hx))

/-- R91: the ports 0x003 and 0x008 return the flags READY and SEQ_READY. -/
theorem perform_ready {s : State} (hl : s.live) :
    perform (.portRead 0x003#9) s = .next (s.deliver 0x003#9 (flagValue s.ready)) :=
  act_ok hl rfl

theorem perform_seqReady {s : State} (hl : s.live) :
    perform (.portRead 0x008#9) s = .next (s.deliver 0x008#9 (flagValue s.seqReady)) :=
  act_ok hl rfl

/-- Settles O50: the poll is the read of the port, and the flags' reads return. -/
theorem waitHoldsUntilTheValueIsRead : Obligations.WaitHoldsUntilTheValueIsRead := by
  intro p v rest s hl hh
  refine ⟨fun t ht => ?_, ?_, ?_⟩
  · rw [hostTurn_wait hh, ht]
    exact ⟨afterPoll_done, afterPoll_stays⟩
  · rintro rfl
    exact hostTurn_poll hl hh (perform_ready hl)
  · rintro rfl
    exact hostTurn_poll hl hh (perform_seqReady hl)

end Machine

end Sys2Proof
end

section
/-! Proofs for the statements of spec/40_bus_primitives.md: the issue of the engine commands (R80, R81, R84 to R89). -/

namespace Sys2Proof.Machine

/-! ### The host's issue of an engine command (R80, R92) -/

section
variable {c : EngineCmd} {s : State}

/-- R80: where the sequencer is idle, an engine command of the host is its issue. -/
theorem exec_engine (hl : s.live) (hr : s.seqReady = true) :
    exec (Command.engine c).toInstr s = .next (settle s (issue c s)) := by
  rw [exec_toInstr, act_of_live hl, hostCommand, hostIssue, hostMayWrite_ready hr]

theorem exec_engine_effect (hl : s.live) (hr : s.seqReady = true) (hf : issueFault c s = none) :
    exec (Command.engine c).toInstr s = .next (settle s (issueEffect c s)) := by
  rw [exec_engine hl hr, issue, hf]

theorem exec_engine_fault {f : Fault} (hl : s.live) (hr : s.seqReady = true) (hf : issueFault c s = some f) :
    exec (Command.engine c).toInstr s = .next (s.faultedBy f) := by
  rw [exec_engine hl hr, issue, hf]
  rfl

/-- R80, R81: a command the legality table allows takes its effect. -/
theorem exec_engine_legal (h : s.canCommand) (hc : ∀ d o, c ≠ .init d o) (hp : legalIn c s.phase = true) :
    exec (Command.engine c).toInstr s = .next (settle s (issueEffect c s)) := by
  obtain ⟨hl, he, hb, hr⟩ := h
  exact exec_engine_effect hl hr ((issueFault_none hc).mpr ⟨he, hb, hp⟩)

/-- R85, R87 to R89: a command that starts a phase. -/
theorem exec_pending {p : Pending} (h : s.canCommand) (hp : legalIn p.cmd s.phase = true) :
    exec (Command.engine p.cmd).toInstr s = .next ({ s with data := p.dataAfter s.data }.beginPhase p) := by
  obtain ⟨hl, he, hb, hr⟩ := h
  rw [exec_engine hl hr, issue_of_legal he hb hp]
  rfl

end

/-- Settles O13: EN = 0 is the one check of INIT. -/
theorem initProgramsAndEnables : Obligations.InitProgramsAndEnables :=
  fun d o _ hl hr he => exec_engine_effect (c := .init d o) hl hr (issueFault_init_none.mpr he)

/-- Settles O14: every PHASE but MR allows START. -/
theorem startBeginsAPhase : Obligations.StartBeginsAPhase :=
  fun _ h hp => exec_pending (p := .start) h (legalIn_start hp)

/-- Settles O17: ADDR and MT allow WRITE. -/
theorem writeBeginsAPhase : Obligations.WriteBeginsAPhase :=
  fun b _ h hp => exec_pending (p := .write b) h (legalIn_write hp)

/-- Settles O18: MR allows both receive commands. -/
theorem receiveCommandsBeginAPhase : Obligations.ReceiveCommandsBeginAPhase :=
  fun _ h hp => ⟨exec_pending (p := .readAck) h (by rw [hp]; rfl), exec_pending (p := .readNack) h (by rw [hp]; rfl)⟩

/-! ### STOP (R86, R55, R56) -/

theorem legalIn_stop {ph : Phase} (h : ph = .addr ∨ ph = .mt ∨ ph = .hold) : legalIn .stop ph = true := by
  obtain rfl | rfl | rfl := h <;> rfl

/-- R86: STOP completes at its issue, and the device goes to d. -/
theorem exec_stop {s : State} {d : Device} (h : s.canCommand) (hp : s.phase = .addr ∨ s.phase = .mt ∨ s.phase = .hold)
    (href : s.cfg.mode = .ref → s.dev.stopCondition (.command (encodeEngine .stop)) = .ok d)
    (horacle : s.cfg.mode = .oracle → d = s.dev) :
    exec .stop s = .next { s with
      trace := s.trace ++ [.p], phase := .idle, ready := false, statusRaw := none, dev := d } := by
  have hstop : issueEffect .stop s = .ok { s.stopEngine with dev := d } :=
    remoteStop_eq (s := s.stopEngine) href horacle
  have hx := exec_engine_legal h (by simp) (legalIn_stop hp)
  rw [hstop] at hx
  exact hx

/-- R55, R56: with no full write, the stop condition only ends the transaction. -/
theorem stopCondition_of_not_full {c : Cause} {d : Device} (h : d.wst ≠ .wFull) :
    d.stopCondition c = .ok { d with wst := .idle } := by
  unfold Device.stopCondition
  cases hw : d.wst with
  | wFull => exact absurd hw h
  | _ => rfl

/-- Settles O15: the device is untouched in mode ORACLE, and has nothing to store in mode REF. -/
theorem stopReleasesTheBus : Obligations.StopReleasesTheBus := by
  refine fun s h hp => ⟨fun hm => ?_, fun hm hw => ?_⟩
  · exact exec_stop (d := s.dev) h hp (by simp [hm]) (fun _ => rfl)
  · exact exec_stop h hp (fun _ => stopCondition_of_not_full hw) (by simp [hm])

/-- Settles O16: the full write is a write of MEM, whose laws give the three clauses. -/
theorem stopStoresTheAcknowledgedByte : Obligations.StopStoresTheAcknowledgedByte := by
  intro s ptr v h hp hm hw hptr hv hwf
  refine ⟨Memory.write ptr v s.dev.mem, ?_, Memory.read_write_same ptr v hwf, ?_, Memory.write_wf ptr v hwf⟩
  · exact exec_stop h hp (fun _ => stopCondition_wFull hw hptr hv) (by simp [hm])
  · exact fun b hb => Memory.read_write_other hb v _

/-! ### The checks (R80) -/

theorem issueFault_reinit {d o : Byte} {s : State} (he : s.en = true) :
    issueFault (.init d o) s = some (.reinit (.command (encodeEngine (.init d o)))) := by
  simp [issueFault, he]

section
variable {c : EngineCmd} {s : State}

theorem issueFault_notInitialised (hc : ∀ d o, c ≠ .init d o) (he : s.en = false) :
    issueFault c s = some (.notInitialised (.command (encodeEngine c))) := by
  cases c with
  | init d o => exact absurd rfl (hc d o)
  | _ => simp [issueFault, he]

theorem issueFault_cmdWhileBusy (hc : ∀ d o, c ≠ .init d o) (he : s.en = true) (hb : s.busy = true) :
    issueFault c s = some (.cmdWhileBusy (.command (encodeEngine c))) := by
  cases c with
  | init d o => exact absurd rfl (hc d o)
  | _ => simp [issueFault, he, hb]

/-- R81: the table marks no PHASE for INIT, so an illegal command is another one. -/
theorem issueFault_outOfOrder (he : s.en = true) (hb : s.busy = false) (hp : legalIn c s.phase = false) :
    issueFault c s = some (.outOfOrder (.command (encodeEngine c))) := by
  cases c with
  | init d o => cases hp
  | _ => simp [issueFault, he, hb, hp]

theorem exec_engine_seqBusy (hl : s.live) (hr : s.seqReady = false) :
    exec (Command.engine c).toInstr s = .next (s.faultedBy (.hostWhileSeqBusy (.command (encodeEngine c)))) := by
  rw [exec_toInstr]
  exact act_error hl (hostMayWrite_busy hr)

end

/-- R80, R92: the host's check comes before the word written to CMD is decoded. -/
theorem exec_pwCmd_seqBusy {w : Word} {s : State} (hl : s.live) (hr : s.seqReady = false) :
    exec (.pwCmd w) s = .next (s.faultedBy (.hostWhileSeqBusy (.command w))) := by
  refine act_error hl ?_
  unfold writeCmd
  cases hw : readCommand w with
  | error e => exact hostMayWrite_busy hr
  | ok c =>
    rw [← encodeCommand_of_readCommand hw]
    cases c with
    | engine c => exact hostMayWrite_busy hr
    | sequencer c => exact hostMayWrite_busy hr

/-- R68: a word that decodes to no command. -/
theorem exec_pwCmd_reserved {w : Word} {e : Reject} {s : State} (hl : s.live) (hr : s.seqReady = true)
    (hw : readCommand w = .error e) : exec (.pwCmd w) s = .next (s.faultedBy (.reservedEncoding (.command w))) := by
  refine act_error hl ?_
  simp only [writeCmd, hw]
  exact hostMayWrite_ready hr

theorem readCommand_of_unassigned {w : Word} (h : assignedWord w = false) :
    readCommand w = .error (.reservedEncoding w) :=
  ((everyCommandWordDecodesOrIsReserved.1 w).resolve_left (by simp [h])).2

/-- Settles O19: the host's check, then the faults of `issueFault` in their order. -/
theorem engineCommandsAreCheckedInOrder : Obligations.EngineCommandsAreCheckedInOrder := by
  intro c w s hl
  refine ⟨fun hr => ⟨exec_engine_seqBusy hl hr, exec_pwCmd_seqBusy hl hr, exec_pwCmd_seqBusy hl hr⟩, ?_, ?_, ?_⟩
  · exact fun hr hw => exec_pwCmd_reserved hl hr (readCommand_of_unassigned hw)
  · rintro hr he ⟨d, o, rfl⟩
    exact exec_engine_fault hl hr (issueFault_reinit he)
  · intro hr hc
    refine ⟨fun he => ?_, fun he hb => ?_, fun he hb hp => ?_⟩
    · exact exec_engine_fault hl hr (issueFault_notInitialised hc he)
    · exact exec_engine_fault hl hr (issueFault_cmdWhileBusy hc he hb)
    · exact exec_engine_fault hl hr (issueFault_outOfOrder he hb hp)

/-! ### OUT_OF_ORDER comes from the legality table alone (R81) -/

/-- The only fault of a stop condition is a none operand (R10). -/
theorem stopCondition_error {c : Cause} {d : Device} {e : Stop} (h : d.stopCondition c = .error e) :
    e = .fault (.readUnwritten c) := by
  by_cases hw : d.wst = .wFull
  · cases hp : d.ptr <;> cases hv : d.wpend <;> simp [Device.stopCondition, hw, hp, hv] at h <;> exact h.symm
  · rw [stopCondition_of_not_full hw] at h
    cases h

theorem remoteStop_error {c : Cause} {s : State} {e : Stop} (h : s.remoteStop c = .error e) :
    e = .fault (.readUnwritten c) := by
  unfold State.remoteStop at h
  split at h
  · cases h
  · split at h
    · cases h
    · rename_i hd
      cases h
      exact stopCondition_error hd

/-- R84 to R89: no command's effect raises OUT_OF_ORDER. -/
theorem settle_issueEffect_faulted {c : EngineCmd} {s : State} (hf : s.faulted = none) (k : Cause) :
    (settle s (issueEffect c s)).faulted ≠ some (.fault (.outOfOrder k)) := by
  cases c with
  | stop =>
    cases hx : issueEffect .stop s with
    | ok t =>
      obtain ⟨d, rfl, -⟩ := remoteStop_ok hx
      simp [settle, State.stopEngine, hf]
    | error e =>
      obtain rfl := remoteStop_error hx
      simp [settle]
  | _ => simp [issueEffect, settle, State.initEngine, State.beginPhase, hf]

theorem exec_engine_outOfOrder_iff {c : EngineCmd} {s : State} (h : s.canCommand) (hc : ∀ d o, c ≠ .init d o) :
    exec (Command.engine c).toInstr s = .next (s.faultedBy (.outOfOrder (.command (encodeEngine c)))) ↔
      legalIn c s.phase = false := by
  refine ⟨fun hx => Bool.eq_false_iff.mpr fun hp => ?_, fun hp => ?_⟩
  · rw [exec_engine_legal h hc hp] at hx
    exact settle_issueEffect_faulted h.1.1 _ (congrArg State.faulted (Host.Outcome.next.inj hx))
  · obtain ⟨hl, he, hb, hr⟩ := h
    exact exec_engine_fault hl hr (issueFault_outOfOrder he hb hp)

/-- R81: the table's "no" entries, row by row. -/
theorem legalIn_false_iff (b : Byte) (ph : Phase) :
    (legalIn .start ph = false ↔ ph = .mr) ∧
    (legalIn .stop ph = false ↔ ph = .idle ∨ ph = .mr) ∧
    (legalIn (.write b) ph = false ↔ ph = .idle ∨ ph = .mr ∨ ph = .hold) ∧
    (legalIn .readAck ph = false ↔ ph ≠ .mr) ∧
    (legalIn .readNack ph = false ↔ ph ≠ .mr) := by
  cases ph <;> simp [legalIn]

/-- Settles O20: OUT_OF_ORDER is raised exactly where the table says no. -/
theorem onlyTheMarkedCallsAreOutOfOrder : Obligations.OnlyTheMarkedCallsAreOutOfOrder := by
  intro b s h
  obtain ⟨hstart, hstop, hwrite, hack, hnack⟩ := legalIn_false_iff b s.phase
  exact ⟨(exec_engine_outOfOrder_iff (c := .start) h (by simp)).trans hstart,
    (exec_engine_outOfOrder_iff (c := .stop) h (by simp)).trans hstop,
    (exec_engine_outOfOrder_iff (c := .write b) h (by simp)).trans hwrite,
    (exec_engine_outOfOrder_iff (c := .readAck) h (by simp)).trans hack,
    (exec_engine_outOfOrder_iff (c := .readNack) h (by simp)).trans hnack⟩

end Sys2Proof.Machine
end

section
/-! Proofs for the statements of spec/40_bus_primitives.md: the completion of a phase (R82 to R89). -/

namespace Sys2Proof.Machine

section
variable {c : Pending} {s u : State} {a : BusAnswer} {rest : List BusAnswer} {n : StatusName}

/-- R82: the bus environment's turn completes the phase with the next answer of the script. -/
theorem busTurn_scripted (hl : s.live) (hb : s.busy = true) (hp : s.pend = some c) (ha : s.answers = a :: rest)
    (h : completion c a { s with answers := rest } = .ok (n, u)) : busTurn s = .next (u.finishPhase n a.low) := by
  rw [busTurn_eq hl hb hp, complete_scripted ha h]
  rfl

/-- R83: a bus error ends any phase in the same way. -/
theorem completion_busError (hb : a.berr = true) :
    completion c a s = .ok (.busError, { s with
      trace := s.trace ++ [.berr], phase := .idle, dev := if s.cfg.mode = .ref then s.dev.abandon else s.dev }) := by
  cases hm : s.cfg.mode <;> simp [completion, hb, State.busError, State.remoteAbandon, State.emit, hm]

/-- R88, R89: byte v is received, and the device goes to d: the device's byte in mode REF, the drawn one in ORACLE. -/
theorem completeRead_eq {k : AckBit} {ph : Phase} {v : Byte} {d : Device}
    (href : s.cfg.mode = .ref → s.dev.send (.command c.word) = .ok (v, d))
    (horacle : s.cfg.mode = .oracle → v = a.rx ∧ d = s.dev) :
    completeRead c k n ph a s =
      .ok (n, { s with trace := s.trace ++ [.rx v k], data := some v, phase := ph, dev := d }) := by
  have hr : s.remoteByte (.command c.word) a.rx = .ok (v, { s with dev := d }) := by
    unfold State.remoteByte
    cases hm : s.cfg.mode with
    | oracle =>
      obtain ⟨rfl, rfl⟩ := horacle hm
      rfl
    | ref => simp only [href hm]
  rw [completeRead, hr]
  rfl

/-- R82, R88, R89: the turn that receives byte v, for a command whose completion is the reading of a byte. -/
theorem busTurn_read {k : AckBit} {ph : Phase} {v : Byte} {d : Device} (hl : s.live) (hb : s.busy = true)
    (ha : s.answers = a :: rest) (hp : s.pend = some c) (hc : ∀ w, completion c a w = completeRead c k n ph a w)
    (href : s.cfg.mode = .ref → s.dev.send (.command c.word) = .ok (v, d))
    (horacle : s.cfg.mode = .oracle → v = a.rx ∧ d = s.dev) :
    busTurn s = .next { s with
      answers := rest, busy := false, pend := none, ready := true, phase := ph, data := some v,
      trace := s.trace ++ [.rx v k], statusRaw := some (s.cfg.sc.code n ||| a.low.setWidth 8), dev := d } :=
  busTurn_scripted hl hb hp ha ((hc _).trans (completeRead_eq (s := { s with answers := rest }) href horacle))

end

/-- Settles O21: S or Sr by PHASE, as `completion_start` says. -/
theorem startCompletes : Obligations.StartCompletes := by
  intro s a rest hl hb hp ha hberr
  rw [busTurn_scripted hl hb hp ha (completion_start hberr)]
  by_cases hph : s.phase = .idle <;> simp [hph, State.finishPhase, Device.abandon, StatusTable.code]

/-- Settles O22: the bus error comes before the rule of the pending command. -/
theorem busErrorReleasesTheBus : Obligations.BusErrorReleasesTheBus :=
  fun _ _ _ _ hl hb hp ha hberr => busTurn_scripted hl hb hp ha (completion_busError hberr)

/-- R87: the code of the answered byte. -/
theorem code_writeStatus (sc : StatusTable) (ph : Phase) (b : Byte) (k : AckBit) :
    sc.code (writeStatus ph b k) = if ph = .addr
      then (if b.extractLsb' 0 1 = 0#1
        then (if k = .ack then sc.addressAckW else sc.addressNackW)
        else (if k = .ack then sc.addressAckR else sc.addressNackR))
      else (if k = .ack then sc.dataAck else sc.dataTxNack) := by
  simp only [writeStatus, apply_ite sc.code]
  cases k <;> rfl

/-- R87: a control byte's bit 0 is the direction. -/
theorem writePhase_eq (ph : Phase) (b : Byte) (k : AckBit) :
    writePhase ph b k =
      if k = .nack then .hold else if ph = .addr ∧ b.extractLsb' 0 1 = 1#1 then .mr else .mt := by
  have hbit : b.extractLsb' 0 1 ≠ 0#1 ↔ b.extractLsb' 0 1 = 1#1 := ⟨bit_eq_one, fun h => by simp [h]⟩
  cases k with
  | nack => rfl
  | ack => simp only [writePhase, hbit, reduceCtorEq, if_false]

/-- Settles O23: in mode ORACLE the answer is the drawn one. -/
theorem writeCompletesInOracleMode : Obligations.WriteCompletesInOracleMode := by
  intro b s a rest hl hm hb hp hph ha hberr
  have hc := completion_write (s := { s with answers := rest }) (b := b) hberr (by simp [hm]) (fun _ => ⟨rfl, rfl⟩)
  rw [busTurn_scripted hl hb hp ha hc, State.finishPhase, code_writeStatus, writePhase_eq]

/-- Settles O26: the two receive commands, in either mode. -/
theorem receivedByteLandsInData : Obligations.ReceivedByteLandsInData := by
  intro s a rest hl hb ha hberr
  have hack : ∀ w, completion .readAck a w = completeRead .readAck .ack .dataRxAck .mr a w := by
    simp [completion, hberr]
  have hnack : ∀ w, completion .readNack a w = completeRead .readNack .nack .dataNack .hold a w := by
    simp [completion, hberr]
  refine ⟨fun hm hp => ?_, fun hm hp => ?_, fun hm hp hw ptr hptr => ?_, fun hm hp hw ptr hptr => ?_⟩
  · exact busTurn_read (d := s.dev) hl hb ha hp hack (by simp [hm]) (fun _ => ⟨rfl, rfl⟩)
  · exact busTurn_read (d := s.dev) hl hb ha hp hnack (by simp [hm]) (fun _ => ⟨rfl, rfl⟩)
  · exact busTurn_read hl hb ha hp hack (fun _ => send_rd hw hptr) (by simp [hm])
  · exact busTurn_read hl hb ha hp hnack (fun _ => send_rd hw hptr) (by simp [hm])

end Sys2Proof.Machine
end

section
/-! Proofs for the statements of spec/40_bus_primitives.md: the port transactions (R90 to R92). -/

namespace Sys2Proof

/-! ### Ports with no transaction (R91, R92) -/

/-- R91: 0x00B to 0x0FF. -/
theorem decode_portRead_unmapped {p : Port} (hlo : 0x00B ≤ p.toNat) (hhi : p.toNat ≤ 0x0FF) :
    decode (.portRead p) = .error (.portUnmapped p) := by
  have hne : ∀ q : Port, q.toNat < 0x00B → p ≠ q := by
    rintro q hq rfl
    omega
  have hlt : p.toNat < 0x100 := by omega
  simp [decode, decodePortRead, hne, hlt]

/-- R92: 0x00B to 0x0FF. -/
theorem decode_portWrite_unmapped {p : Port} (hlo : 0x00B ≤ p.toNat) (hhi : p.toNat ≤ 0x0FF) (v : Word) :
    decode (.portWrite p v) = .error (.portUnmapped p) :=
  if_pos ⟨hlo, by omega⟩

/-- R92: 0x001 to 0x00A. -/
theorem decode_portWrite_readOnly {p : Port} (hlo : 0x001 ≤ p.toNat) (hhi : p.toNat ≤ 0x00A) (v : Word) :
    decode (.portWrite p v) = .error (.portReadOnly p) := by
  have hne : p ≠ 0x000#9 := by
    rintro rfl
    exact absurd hlo (by decide)
  rw [decode, decodePortWrite, if_neg (by omega), if_pos ⟨by omega, hne⟩]

/-- R69: bits 31..8 are zero exactly where the value is a byte. -/
theorem bufValueOk_iff {v : Word} : bufValueOk v = true ↔ v.toNat < 256 := by
  have hhigh : (v.extractLsb' 8 24).toNat = v.toNat / 256 := by
    rw [BitVec.extractLsb'_toNat, Nat.shiftRight_eq_div_pow]
    have := v.isLt
    omega
  rw [bufValueOk, beq_iff_eq, ← BitVec.toNat_inj, hhigh]
  simp

namespace Machine

theorem perform_error {x : Transfer} {r : Reject} (h : decode x = .error r) (s : State) :
    perform x s = execRejected r s := by
  rw [perform, h]

/-- R91: an access of a port that is not there. -/
theorem perform_unmapped {x : Transfer} {p : Port} {s : State} (hl : s.live) (h : decode x = .error (.portUnmapped p)) :
    perform x s = .next (s.faultedBy (.portUnmapped (.port p))) := by
  rw [perform_error h, execRejected, act_of_live hl]
  rfl

/-- R92: a write of a port that is only read. -/
theorem perform_readOnly {x : Transfer} {p : Port} {s : State} (hl : s.live) (h : decode x = .error (.portReadOnly p)) :
    perform x s = .next (s.faultedBy (.portReadOnly (.port p))) := by
  rw [perform_error h, execRejected, act_of_live hl]
  rfl

/-! ### Port reads (R90, R91) -/

section
variable {α : Type} {p : Port} {s : State}

/-- R91: a register that holds x, read through f. -/
theorem act_portRead_some {r : Option α} {x : α} (f : α → Word) (hl : s.live) (h : r = some x) :
    act (portRead p (r.map f)) s = .next { s with hostReads := s.hostReads ++ [(p, f x)] } := by
  subst h
  exact act_ok hl rfl

/-- R35: a register that holds none. -/
theorem act_portRead_none {r : Option α} (f : α → Word) (hl : s.live) (h : r = none) :
    act (portRead p (r.map f)) s = .next (s.faultedBy (.readUnwritten (.port p))) := by
  subst h
  exact act_error hl rfl

/-- R91: a register that always holds a value. -/
theorem act_portRead_value (x : Word) (hl : s.live) :
    act (portRead p (some x)) s = .next { s with hostReads := s.hostReads ++ [(p, x)] } :=
  act_ok hl rfl

end

theorem resultValue_eq (r : Result) : resultValue r = if r = .success then 0#32 else 1#32 := by
  cases r <;> rfl

/-- Settles O27: row by row, a register that holds a value, one that may hold none, and the unmapped ports. -/
theorem portReadsReturnTheRegisters : Obligations.PortReadsReturnTheRegisters := by
  intro s hl
  refine ⟨act_portRead_value _ hl,
    fun _ => act_portRead_some zext32 hl, act_portRead_none zext32 hl,
    fun _ => act_portRead_some (fun raw => zext32 (maskStatus raw)) hl, act_portRead_none _ hl,
    act_portRead_value _ hl,
    fun _ => act_portRead_some zext32 hl, act_portRead_none zext32 hl,
    act_portRead_value _ hl, act_portRead_value _ hl, act_portRead_value _ hl, act_portRead_value _ hl,
    fun r hr => ?_, act_portRead_none resultValue hl,
    fun _ => act_portRead_some zext32 hl, act_portRead_none zext32 hl,
    fun _ hlo hhi => perform_unmapped hl (decode_portRead_unmapped hlo hhi),
    fun _ _ => act_portRead_some zext32 hl, fun _ => act_portRead_none zext32 hl⟩
  rw [← resultValue_eq]
  exact act_portRead_some resultValue hl hr

/-! ### Port writes (R92) -/

section
variable {i : Byte} {v : Word} {s : State}

/-- R92: a write of a BUF port is the write of its element. -/
theorem perform_bufWrite (i : Byte) (v : Word) (s : State) :
    perform (.portWrite (bufPort i) v) s = exec (.pwBuf i v) s :=
  perform_ok (x := .portWrite (bufPort i) v) (decodePortWrite_bufPort i v) s

theorem exec_pwBuf_seqBusy (hl : s.live) (hr : s.seqReady = false) :
    exec (.pwBuf i v) s = .next (s.faultedBy (.hostWhileSeqBusy (.port (bufPort i)))) :=
  act_error hl (hostMayWrite_busy hr)

theorem exec_pwBuf_reserved (hl : s.live) (hr : s.seqReady = true) (hv : 256 ≤ v.toNat) :
    exec (.pwBuf i v) s = .next (s.faultedBy (.reservedEncoding (.port (bufPort i)))) := by
  refine act_error hl ((hostMayWrite_ready hr).trans (if_neg ?_))
  rw [bufValueOk_iff]
  omega

theorem exec_pwBuf (hl : s.live) (hr : s.seqReady = true) (hv : v.toNat < 256) :
    exec (.pwBuf i v) s = .next { s with buf := bufSet i (some (v.extractLsb' 0 8)) s.buf } :=
  act_ok hl ((hostMayWrite_ready hr).trans (if_pos (bufValueOk_iff.mpr hv)))

end

/-- Settles O29: the new BUF is `bufSet`'s, whose laws give the clauses. -/
theorem bufWriteSetsOneElement : Obligations.BufWriteSetsOneElement :=
  fun i v s hl hr hv hb => ⟨bufSet i (some (v.extractLsb' 0 8)) s.buf, exec_pwBuf hl hr hv, bufSet_wf i _ hb,
    bufGet_set_same i _ hb, fun _ hj => bufGet_set_other hj _ _⟩

/-- Settles O30: ports with no write are rejected by the decoder, before the host's check; then CMD, then BUF. -/
theorem portWritesAreCheckedInOrder : Obligations.PortWritesAreCheckedInOrder := by
  intro p i v s hl
  refine ⟨fun hlo hhi => perform_unmapped hl (decode_portWrite_unmapped hlo hhi v),
    fun hlo hhi => perform_readOnly hl (decode_portWrite_readOnly hlo hhi v),
    fun hr => ⟨?_, .command v, exec_pwCmd_seqBusy hl hr⟩,
    fun hr => ⟨fun c hc => exec_pwCmd hc s, fun r hw => exec_pwCmd_reserved hl hr hw, fun hv => ?_, fun hv => ?_⟩⟩
  · exact (perform_bufWrite i v s).trans (exec_pwBuf_seqBusy hl hr)
  · exact (perform_bufWrite i v s).trans (exec_pwBuf_reserved hl hr hv)
  · exact (perform_bufWrite i v s).trans (exec_pwBuf hl hr hv)

end Machine

end Sys2Proof
end

section
/-! Proofs for the statements of spec/41_eeprom_sequencer.md: the issue of an operation (R94), its micro-steps (R95 to R99) and
the loops of the array operations (R100, R101), one equation for each thing a micro-step can do. -/

namespace Sys2Proof.Machine

/-! ### Issue (R94) -/

/-- Settles O33: the issue of each command is its load. -/
theorem sequencerCommandsLoadTheirOperands : Obligations.SequencerCommandsLoadTheirOperands :=
  fun a x _ h => ⟨exec_sequencer (c := .writeByte a x) h, exec_sequencer (c := .readByte a) h,
    exec_sequencer (c := .writeArray a x) h, exec_sequencer (c := .readArray a x) h⟩

section
variable {c : SeqCmd} {s : State}

theorem exec_sequencer_seqBusy (hl : s.live) (hr : s.seqReady = false) :
    exec (Command.sequencer c).toInstr s = .next (s.faultedBy (.hostWhileSeqBusy (.command (encodeSeq c)))) := by
  rw [exec_toInstr]
  exact act_error hl (hostMayWrite_busy hr)

theorem exec_sequencer_fault {f : Fault} (hl : s.live) (hr : s.seqReady = true) (hf : seqFault c s = some f) :
    exec (Command.sequencer c).toInstr s = .next (s.faultedBy f) := by
  rw [exec_toInstr]
  refine act_error hl ((hostMayWrite_ready hr).trans ?_)
  rw [seqIssue, hf]

theorem loadOp_frame (c : SeqCmd) (s : State) :
    (s.loadOp c).faulted = s.faulted ∧ (s.loadOp c).seqOp = s.seqOp ∧ (s.loadOp c).phase = s.phase := by
  cases c <;> exact ⟨rfl, rfl, rfl⟩

end

/-- Settles O34: the host's check, the two faults of `seqFault` in their order, and the load, which keeps PHASE. -/
theorem sequencerCommandsAreCheckedInOrder : Obligations.SequencerCommandsAreCheckedInOrder := by
  intro c s hl
  refine ⟨exec_sequencer_seqBusy hl, fun hr he => ?_, fun hr he hb => ?_, fun hr he hb => ?_⟩
  · exact exec_sequencer_fault hl hr (by simp [seqFault, he])
  · exact exec_sequencer_fault hl hr (by simp [seqFault, he, hb])
  · obtain ⟨hfault, hop, hphase⟩ := loadOp_frame c (s.beginOp c)
    exact ⟨_, exec_sequencer ⟨hl, he, hb, hr⟩, hfault.trans hl.1, hop, hphase⟩

/-! ### The turn of a running operation (R27, R31) -/

theorem sequencerTurn_eq {op : SeqCmd} {s : State} (hl : s.live) (ho : s.seqOp = some op) (hr : s.seqReady = false) :
    sequencerTurn s = .next (settle s (seqStep op s)) := by
  simp only [sequencerTurn, ho, hr, Bool.false_eq_true, if_false]
  exact act_of_live hl

theorem sequencerTurn_ok {op : SeqCmd} {s t : State} (hl : s.live) (ho : s.seqOp = some op) (hr : s.seqReady = false)
    (h : seqStep op s = .ok t) : sequencerTurn s = .next t := by
  rw [sequencerTurn_eq hl ho hr, h]
  rfl

theorem sequencerTurn_error {op : SeqCmd} {s : State} {f : Fault} (hl : s.live) (ho : s.seqOp = some op)
    (hr : s.seqReady = false) (h : seqStep op s = .error (.fault f)) : sequencerTurn s = .next (s.faultedBy f) := by
  rw [sequencerTurn_eq hl ho hr, h]
  rfl

/-! ### Steps with a check (R95) -/

section
variable {c : EngineCmd} {n : StatusName} {pass : State → State} {s : State} {raw : Byte}

theorem prim_held (hi : s.seqIssued = true) (hr : s.ready = false) : prim c n pass s = .ok s := by
  simp [prim, hi, hr]

theorem prim_expected (hi : s.seqIssued = true) (hr : s.ready = true) (hraw : s.statusRaw = some raw)
    (hcode : maskStatus raw = s.cfg.sc.code n) : prim c n pass s = .ok (pass { s with seqIssued := false }) := by
  simp [prim, primCheck, hi, hr, hraw, hcode]

theorem prim_unexpected (hi : s.seqIssued = true) (hr : s.ready = true) (hraw : s.statusRaw = some raw)
    (hcode : maskStatus raw ≠ s.cfg.sc.code n) :
    prim c n pass s = .ok ({ s with seqIssued := false }.goto .err) := by
  simp [prim, primCheck, hi, hr, hraw, hcode]

end

/-- RB6 is the one step whose check goes to RB7. -/
theorem expectAt_rb7 {l m : SeqPc} {n : StatusName} (h : expectAt l = some (n, m)) : m = .rb7 ↔ l = .rb6 := by
  cases l <;> cases h <;> simp

/-! ### The stop of a micro-program (R86, R95) -/

/-- The two steps `Prim(STOP)` and the step each goes to. -/
def StopStep (l m : SeqPc) : Prop := (l = .wb5 ∧ m = .wb6) ∨ (l = .rb7 ∧ m = .rb8)

theorem seqStep_stop {op : SeqCmd} {s : State} {l : SeqPc} (h : StopStep s.seqPc l) : seqStep op s = primStop l s := by
  obtain ⟨hpc, rfl⟩ | ⟨hpc, rfl⟩ := h <;> simp only [seqStep, hpc]

/-- R86: the bus is released, and the device goes to d. -/
theorem primStop_eq {l : SeqPc} {s : State} {d : Device} (he : s.en = true) (hb : s.busy = false)
    (hp : legalIn .stop s.phase = true)
    (href : s.cfg.mode = .ref → s.dev.stopCondition (.command (encodeEngine .stop)) = .ok d)
    (horacle : s.cfg.mode = .oracle → d = s.dev) :
    primStop l s = .ok ({ s.stopEngine with dev := d }.goto l) := by
  have hf : issueFault .stop s = none := (issueFault_none (by simp)).mpr ⟨he, hb, hp⟩
  rw [primStop, issue, hf, issueEffect, remoteStop_eq (s := s.stopEngine) href horacle]

/-- Settles O35: `seqStep_prim` with the four outcomes of `prim`, and `primStop_eq` with those of the stop condition. -/
theorem microStepsIssueHoldAndCheck : Obligations.MicroStepsIssueHoldAndCheck := by
  intro op s hl ho hr
  have turn {t : State} (h : seqStep op s = .ok t) : sequencerTurn s = .next t := sequencerTurn_ok hl ho hr h
  refine ⟨fun p n l hp hx => ?_, fun l hs he hb hp => ?_⟩
  · have hstep := seqStep_prim (op := op) hp hx
    refine ⟨fun hi he hb hc => ?_, fun hi hready => ?_, fun hi hready raw hraw hcode => ?_,
      fun hi hready raw hraw hcode => ?_⟩
    · refine ⟨p.dataAfter s.data, turn (hstep.trans (prim_issue hi he hb hc)), ?_⟩
      exact ⟨fun b hb => hb ▸ rfl, fun hs => hs ▸ rfl, fun hs => hs ▸ rfl⟩
    · exact turn (hstep.trans (prim_held hi hready))
    · simp only [← expectAt_rb7 hx]
      exact turn (hstep.trans (prim_expected hi hready hraw hcode))
    · exact turn (hstep.trans (prim_unexpected hi hready hraw hcode))
  · have stop {d : Device} (href : s.cfg.mode = .ref → s.dev.stopCondition (.command (encodeEngine .stop)) = .ok d)
        (horacle : s.cfg.mode = .oracle → d = s.dev) :
        sequencerTurn s = .next ({ s.stopEngine with dev := d }.goto l) :=
      turn ((seqStep_stop hs).trans (primStop_eq he hb (legalIn_stop hp) href horacle))
    refine ⟨fun hm => ?_, fun hm hw => ?_, fun hm hw ptr v hptr hv hwf => ?_⟩
    · exact stop (d := s.dev) (by simp [hm]) (fun _ => rfl)
    · exact stop (fun _ => stopCondition_of_not_full hw) (by simp [hm])
    · exact ⟨Memory.write ptr v s.dev.mem, stop (fun _ => stopCondition_wFull hw hptr hv) (by simp [hm]),
        Memory.read_write_same ptr v hwf, fun b hb => Memory.read_write_other hb v _, Memory.write_wf ptr v hwf⟩

/-! ### The end of a micro-program (R96) -/

theorem seqStep_success {op : SeqCmd} {s : State} (h : s.seqPc = .wb6 ∨ s.seqPc = .rb8) :
    seqStep op s = finishByte op .success s := by
  obtain hpc | hpc := h <;> simp only [seqStep, hpc]

theorem seqStep_error {op : SeqCmd} {s : State} (h : s.seqPc = .err) : seqStep op s = finishByte op .error s := by
  simp only [seqStep, h]

/-- Settles O36: `finishByte` of the two single-byte operations, with the two results. -/
theorem singleByteOperationsEnd : Obligations.SingleByteOperationsEnd := by
  intro a d s hl hr
  refine ⟨fun ho hpc => ?_, fun ho hpc => ?_, fun ho hpc => ?_, fun ho hpc => ?_⟩
  · exact sequencerTurn_ok hl ho hr (seqStep_success (.inl hpc))
  · exact sequencerTurn_ok hl ho hr (seqStep_error hpc)
  · exact sequencerTurn_ok hl ho hr (seqStep_success (.inr hpc))
  · exact sequencerTurn_ok hl ho hr (seqStep_error hpc)

/-- R101: what an element takes from a read with result r, which gave rd. -/
def Result.element (rd : Option Byte) (r : Result) : Option Byte :=
  match r with
  | .success => rd
  | .error => none

theorem finishByte_readArray {a : LAddr} {x : Byte} {r : Result} {s : State} {i : BitVec 9} (hi : s.seqI = some i)
    (hlt : i.toNat < 256) :
    finishByte (.readArray a x) r s = .ok ({ s with
      buf := bufSet (i.setWidth 8) (r.element s.seqRd) s.buf, seqR := some r }.goto .ra2) := by
  cases r <;> simp only [finishByte, hi, needed_some, storeElement, if_pos hlt, Result.element]

/-! ### The heads of the loops (R100, R101) -/

theorem index_eq_count_iff {i : BitVec 9} {n : Byte} : i = n.setWidth 9 ↔ i.toNat = n.toNat := by
  have hn : (n.setWidth 9).toNat = n.toNat := BitVec.toNat_setWidth_of_le (by decide)
  rw [← BitVec.toNat_inj, hn]

section
variable {op : SeqCmd} {s : State} {i : BitVec 9} {n : Byte} {base : LAddr}

theorem writeLoopHead_done (hi : s.seqI = some i) (hn : s.seqN = some n) (h : i.toNat = n.toNat) :
    writeLoopHead op s = .ok (s.goto .wa4) := by
  rw [writeLoopHead, hi, hn, needed_some, needed_some, if_pos (index_eq_count_iff.mpr h)]

theorem readLoopHead_done (hi : s.seqI = some i) (hn : s.seqN = some n) (h : i.toNat = n.toNat) :
    readLoopHead op s = .ok (s.goto .ra4) := by
  rw [readLoopHead, hi, hn, needed_some, needed_some, if_pos (index_eq_count_iff.mpr h)]

/-- Below SEQ_N, WA1 takes the element BUF[SEQ_I]. -/
theorem writeLoopHead_below (hi : s.seqI = some i) (hn : s.seqN = some n) (h : i.toNat < n.toNat)
    (hbase : s.seqBase = some base) :
    writeLoopHead op s = needed (.command (encodeSeq op)) (bufGet (i.setWidth 8) s.buf) fun b =>
      .ok ({ s with seqAddr := some (elementAddr base i), seqData := some b }.goto .wb1) := by
  have hne : i ≠ n.setWidth 9 := fun he => by
    have := index_eq_count_iff.mp he
    omega
  have hlt : i.toNat < 256 := by
    have := n.isLt
    omega
  simp only [writeLoopHead, hi, hn, hbase, needed_some, if_neg hne, seqElement, if_pos hlt]

theorem readLoopHead_below (hi : s.seqI = some i) (hn : s.seqN = some n) (h : i.toNat < n.toNat)
    (hbase : s.seqBase = some base) :
    readLoopHead op s = .ok ({ s with seqAddr := some (elementAddr base i), seqRd := none }.goto .rb1) := by
  have hne : i ≠ n.setWidth 9 := fun he => by
    have := index_eq_count_iff.mp he
    omega
  simp only [readLoopHead, hi, hn, hbase, needed_some, if_neg hne]

/-! ### The tails of the loops (R100 to R102) -/

theorem loopNext_abort {l : SeqPc} (h : s.cfg.strictArray = true ∧ s.seqR = some .error) :
    loopNext op l s = .ok ({ s with result := some .error }.goto .seqEnd) := by
  simp [loopNext, h]

theorem loopNext_next {l : SeqPc} (h : ¬ (s.cfg.strictArray = true ∧ s.seqR = some .error)) (hi : s.seqI = some i) :
    loopNext op l s = .ok ({ s with seqI := some (i + 1#9) }.goto l) := by
  rw [loopNext, if_neg h, hi, needed_some]

theorem not_abort (h : s.cfg.strictArray = false ∨ s.seqR = some .success) :
    ¬ (s.cfg.strictArray = true ∧ s.seqR = some .error) := by
  obtain h | h := h <;> simp [h]

end

section
variable {op : SeqCmd} {s : State}

theorem seqStep_wa1 (h : s.seqPc = .wa1) : seqStep op s = writeLoopHead op s := by simp only [seqStep, h]

theorem seqStep_ra1 (h : s.seqPc = .ra1) : seqStep op s = readLoopHead op s := by simp only [seqStep, h]

theorem seqStep_wa2 (h : s.seqPc = .wa2) : seqStep op s = .ok (settleDelay .wa3 s) := by simp only [seqStep, h]

theorem seqStep_ra2 (h : s.seqPc = .ra2) : seqStep op s = .ok (settleDelay .ra3 s) := by simp only [seqStep, h]

theorem seqStep_wa3 (h : s.seqPc = .wa3) : seqStep op s = loopNext op .wa1 s := by simp only [seqStep, h]

theorem seqStep_ra3 (h : s.seqPc = .ra3) : seqStep op s = loopNext op .ra1 s := by simp only [seqStep, h]

theorem seqStep_loopEnd (h : s.seqPc = .wa4 ∨ s.seqPc = .ra4) : seqStep op s = .ok (loopEnd s) := by
  obtain h | h := h <;> simp only [seqStep, h]

theorem seqStep_seqEnd (h : s.seqPc = .seqEnd) : seqStep op s = .ok s.endOp := by simp only [seqStep, h]

end

/-- Settles O37: each label's equation. -/
theorem writeArrayLoops : Obligations.WriteArrayLoops := by
  intro a base x n i s hl hr ho hbase hn hi
  have turn {t : State} (h : seqStep (.writeArray a x) s = .ok t) : sequencerTurn s = .next t :=
    sequencerTurn_ok hl ho hr h
  refine ⟨fun hpc hd => ?_, fun hpc hlt hbuf => ?_, fun hpc hlt b hbuf => ?_, fun hpc => ?_, fun hpc => ?_, fun hpc => ?_,
    fun hpc hc => ?_, fun hpc hc he => ?_, fun hpc => ?_, fun hpc => ?_⟩
  · exact turn ((seqStep_wa1 hpc).trans (writeLoopHead_done hi hn hd))
  · refine sequencerTurn_error hl ho hr ((seqStep_wa1 hpc).trans ((writeLoopHead_below hi hn hlt hbase).trans ?_))
    rw [hbuf]
    rfl
  · refine turn ((seqStep_wa1 hpc).trans ((writeLoopHead_below hi hn hlt hbase).trans ?_))
    rw [hbuf]
    rfl
  · exact turn (seqStep_success (.inl hpc))
  · exact turn (seqStep_error hpc)
  · exact turn (seqStep_wa2 hpc)
  · exact turn ((seqStep_wa3 hpc).trans (loopNext_next (not_abort hc) hi))
  · exact turn ((seqStep_wa3 hpc).trans (loopNext_abort ⟨hc, he⟩))
  · exact turn (seqStep_loopEnd (.inl hpc))
  · exact turn (seqStep_seqEnd hpc)

/-- Settles O38: each label's equation; the new BUF is `bufSet`'s, whose laws give the clauses about elements. -/
theorem readArrayLoops : Obligations.ReadArrayLoops := by
  intro a base x n i s hl hr ho hbase hn hi hbuf
  have turn {t : State} (h : seqStep (.readArray a x) s = .ok t) : sequencerTurn s = .next t :=
    sequencerTurn_ok hl ho hr h
  refine ⟨fun hpc hd => ?_, fun hpc hlt => ?_, fun hpc hlt => ?_, fun hpc hlt => ?_, fun hpc => ?_,
    fun hpc hc => ?_, fun hpc hc he => ?_, fun hpc => ?_, fun hpc => ?_⟩
  · exact turn ((seqStep_ra1 hpc).trans (readLoopHead_done hi hn hd))
  · exact turn ((seqStep_ra1 hpc).trans (readLoopHead_below hi hn hlt hbase))
  · exact ⟨bufSet (i.setWidth 8) s.seqRd s.buf, turn ((seqStep_success (.inr hpc)).trans (finishByte_readArray hi hlt)),
      bufGet_set_same _ _ hbuf, fun j hj => bufGet_set_other hj _ _⟩
  · exact ⟨bufSet (i.setWidth 8) none s.buf, turn ((seqStep_error hpc).trans (finishByte_readArray hi hlt)),
      bufGet_set_same _ _ hbuf, fun j hj => bufGet_set_other hj _ _⟩
  · exact turn (seqStep_ra2 hpc)
  · exact turn ((seqStep_ra3 hpc).trans (loopNext_next (not_abort hc) hi))
  · exact turn ((seqStep_ra3 hpc).trans (loopNext_abort ⟨hc, he⟩))
  · exact turn (seqStep_loopEnd (.inr hpc))
  · exact turn (seqStep_seqEnd hpc)

end Sys2Proof.Machine
end

section
/-! Proofs for the statements of spec/41_eeprom_sequencer.md: what every step keeps while an operation runs (R95 to R103).

`MicroStep` says once what the turn of a running operation can be where the machine's invariant holds, its two faults included;
`Completed` says what a completed phase does to PHASE and TRACE in either mode. The invariant (R95 to R101), the faults (R97,
R98, R100) and the count of DELAY events (R103) follow by a case split over these. -/

namespace Sys2Proof.Machine

/-! ### The turns of a running operation (R95 to R101) -/

/-- What the turn of a running operation op can be. -/
inductive MicroStep (op : SeqCmd) (s : State) : Except Stop State → Prop where
  /-- R95: the step's command is issued. -/
  | issued (c : Pending) (hc : startsAt s = some c) (n : StatusName) (l : SeqPc)
      (hx : expectAt s.seqPc = some (n, l)) (hn : s.seqIssued = false) : MicroStep op s (.ok (s.issued c s.turns))
  /-- R97, R98: the first START in PHASE MR. -/
  | outOfOrder (hpc : s.seqPc = .wb1 ∨ s.seqPc = .rb1) (hn : s.seqIssued = false) (hp : s.phase = .mr) :
      MicroStep op s (.error (.fault (.outOfOrder (.command (encodeEngine .start)))))
  /-- R95: the hold. -/
  | held (hi : s.seqIssued = true) (hr : s.ready = false) : MicroStep op s (.ok s)
  /-- R95: the check that passes. -/
  | expected (n : StatusName) (l : SeqPc) (raw : Byte) (hx : expectAt s.seqPc = some (n, l)) (hi : s.seqIssued = true)
      (hr : s.ready = true) (hraw : s.statusRaw = some raw) (hcode : maskStatus raw = s.cfg.sc.code n) :
      MicroStep op s (.ok ({ s with seqIssued := false }.passTo l))
  /-- R95: the check that goes to ERR. -/
  | unexpected (n : StatusName) (l : SeqPc) (hx : expectAt s.seqPc = some (n, l)) (hr : s.ready = true) :
      MicroStep op s (.ok ({ s with seqIssued := false }.goto .err))
  /-- R86: WB5, RB7. -/
  | stopped (l : SeqPc) (d : Device) (hl : StopStep s.seqPc l) : MicroStep op s (.ok ({ s.stopEngine with dev := d }.goto l))
  /-- R96: the end of a single-byte operation. -/
  | byteEnded (r : Result) (x : Option Byte) (hop : isArrayOp op = false)
      (hpc : s.seqPc = .wb6 ∨ s.seqPc = .rb8 ∨ s.seqPc = .err) :
      MicroStep op s (.ok { s with seqR := some r, result := some r, rdata := x }.endOp)
  /-- R96, R101: the return to the array loop. -/
  | elementEnded (r : Result) (b : Cells) (hb : bufWf s.buf = true → bufWf b = true) (l : SeqPc)
      (hl : l = .wa2 ∨ l = .ra2) (hlabel : labelOf op l = true) (hpc : s.seqPc = .wb6 ∨ s.seqPc = .rb8 ∨ s.seqPc = .err) :
      MicroStep op s (.ok ({ s with buf := b, seqR := some r }.goto l))
  /-- R100, R101: WA1, RA1 with every element done. -/
  | loopDone (l : SeqPc) (hl : (s.seqPc = .wa1 ∧ l = .wa4) ∨ (s.seqPc = .ra1 ∧ l = .ra4)) (i : BitVec 9) (n : Byte)
      (hi : s.seqI = some i) (hn : s.seqN = some n) (he : i.toNat = n.toNat) : MicroStep op s (.ok (s.goto l))
  /-- R100: WA1 with a missing element. -/
  | missing (hpc : s.seqPc = .wa1) (i : BitVec 9) (hi : s.seqI = some i) (hb : bufGet (i.setWidth 8) s.buf = none) :
      MicroStep op s (.error (.fault (.readUnwritten (.command (encodeSeq op)))))
  /-- R100, R101: the operands of the next element. -/
  | element (l : SeqPc) (a : LAddr) (d rd : Option Byte)
      (hl : (s.seqPc = .wa1 ∧ l = .wb1 ∧ d.isSome = true) ∨ (s.seqPc = .ra1 ∧ l = .rb1)) (i : BitVec 9) (n : Byte)
      (hi : s.seqI = some i) (hn : s.seqN = some n) (hlt : i.toNat < n.toNat) :
      MicroStep op s (.ok ({ s with seqAddr := some a, seqData := d, seqRd := rd }.goto l))
  /-- R103: WA2, RA2. -/
  | delayed (l : SeqPc) (hl : (s.seqPc = .wa2 ∧ l = .wa3) ∨ (s.seqPc = .ra2 ∧ l = .ra3)) :
      MicroStep op s (.ok (settleDelay l s))
  /-- R102: WA3, RA3 of a strict array after an Error. -/
  | aborted (hpc : s.seqPc = .wa3 ∨ s.seqPc = .ra3) (hs : s.cfg.strictArray = true) :
      MicroStep op s (.ok ({ s with result := some .error }.goto .seqEnd))
  /-- R100, R101: WA3, RA3. -/
  | next (l : SeqPc) (hl : (s.seqPc = .wa3 ∧ l = .wa1) ∨ (s.seqPc = .ra3 ∧ l = .ra1)) (i : BitVec 9)
      (hi : s.seqI = some i) : MicroStep op s (.ok ({ s with seqI := some (i + 1#9) }.goto l))
  /-- R100, R101: WA4, RA4. -/
  | loopEnded (hpc : s.seqPc = .wa4 ∨ s.seqPc = .ra4) : MicroStep op s (.ok (loopEnd s))
  /-- R100, R101: END. -/
  | arrayEnded (hpc : s.seqPc = .seqEnd) : MicroStep op s (.ok s.endOp)

/-! ### Labels -/

/-- A checked label and the label its passed check goes to are in the same micro-program. -/
theorem expectAt_label {l m : SeqPc} {n : StatusName} (h : expectAt l = some (n, m)) :
    isWriteLabel m = isWriteLabel l ∧ isReadLabel m = isReadLabel l := by
  cases l <;> cases h <;> decide

theorem label_of_expectAt {l m : SeqPc} {n : StatusName} (h : expectAt l = some (n, m)) :
    isWriteLabel l = true ∨ isReadLabel l = true := by
  cases l <;> cases h <;> decide

theorem stopStep_label {l m : SeqPc} (h : StopStep l m) :
    isWriteLabel m = isWriteLabel l ∧ isReadLabel m = isReadLabel l := by
  obtain ⟨rfl, rfl⟩ | ⟨rfl, rfl⟩ := h <;> decide

/-- Every operation runs through ERR. -/
theorem labelOf_err (op : SeqCmd) : labelOf op .err = true := by
  cases op <;> rfl

/-- An operation runs through a whole micro-program. -/
theorem labelOf_micro {op : SeqCmd} {l m : SeqPc} (h : labelOf op l = true)
    (hl : isWriteLabel l = true ∨ isReadLabel l = true)
    (hm : isWriteLabel m = isWriteLabel l ∧ isReadLabel m = isReadLabel l) : labelOf op m = true := by
  obtain ⟨hw, hr⟩ := hm
  have hloop : l ≠ .err ∧ [SeqPc.err, .wa1, .wa2, .wa3, .wa4, .seqEnd].contains l = false ∧
      [SeqPc.err, .ra1, .ra2, .ra3, .ra4, .seqEnd].contains l = false := by
    cases l <;> simp [isWriteLabel, isReadLabel] at hl <;> decide
  cases op <;> simp_all [labelOf]

/-- Only an array operation has labels outside its micro-program. -/
theorem isArrayOp_of_label {op : SeqCmd} {l : SeqPc} (h : labelOf op l = true)
    (hl : isWriteLabel l = false ∧ isReadLabel l = false) (he : l ≠ .err) : isArrayOp op = true := by
  obtain ⟨hw, hr⟩ := hl
  cases op <;> simp [labelOf, hw, hr, he] at h <;> rfl

/-! ### The loop of an array operation (R100, R101) -/

/-- The labels of the loops where no element is under way. -/
def betweenElements : SeqPc → Bool
  | .wa1 | .ra1 | .wa4 | .ra4 | .seqEnd => true
  | _ => false

/-- SEQ_I, SEQ_N and the label of a loop fit together: SEQ_I is below SEQ_N inside an element and equal to it where the loop has
run out. -/
structure LoopAt (strict : Bool) (n i : Nat) (l : SeqPc) : Prop where
  le : i ≤ n
  lt : betweenElements l = false → i < n
  eq : l = .wa4 ∨ l = .ra4 ∨ (l = .seqEnd ∧ strict = false) → i = n

theorem arrayHeld_iff {op : SeqCmd} {s : State} : arrayHeld op s ↔ (isArrayOp op = true →
    ∃ base n i, s.seqBase = some base ∧ s.seqN = some n ∧ s.seqI = some i ∧
      LoopAt s.cfg.strictArray n.toNat i.toNat s.seqPc) := by
  have hinside : ∀ p : Prop, (s.seqPc ≠ .wa1 → s.seqPc ≠ .ra1 → s.seqPc ≠ .wa4 → s.seqPc ≠ .ra4 → s.seqPc ≠ .seqEnd → p) ↔
      (betweenElements s.seqPc = false → p) := by
    intro p
    cases s.seqPc <;> simp [betweenElements]
  have hloop : ∀ strict n i l, LoopAt strict n i l ↔ i ≤ n ∧ (betweenElements l = false → i < n) ∧
      (l = .wa4 ∨ l = .ra4 ∨ (l = .seqEnd ∧ strict = false) → i = n) :=
    fun _ _ _ _ => ⟨fun h => ⟨h.le, h.lt, h.eq⟩, fun ⟨hle, hlt, heq⟩ => ⟨hle, hlt, heq⟩⟩
  cases op <;> simp [arrayHeld, isArrayOp, hloop, hinside]

theorem LoopAt.of_lt {strict : Bool} {n i : Nat} {l : SeqPc} (h : i < n) (hl : betweenElements l = false) :
    LoopAt strict n i l := by
  refine ⟨h.le, fun _ => h, ?_⟩
  rintro (rfl | rfl | ⟨rfl, -⟩) <;> cases hl

theorem LoopAt.of_eq {strict : Bool} {n i : Nat} {l : SeqPc} (h : i = n) (hl : betweenElements l = true) :
    LoopAt strict n i l :=
  ⟨h.le, by simp [hl], fun _ => h⟩

theorem LoopAt.head {strict : Bool} {n i : Nat} {l : SeqPc} (h : i ≤ n) (hl : l = .wa1 ∨ l = .ra1) :
    LoopAt strict n i l := by
  obtain rfl | rfl := hl <;> exact ⟨h, by simp [betweenElements], by simp⟩

theorem LoopAt.abort {n i : Nat} (h : i ≤ n) : LoopAt true n i .seqEnd :=
  ⟨h, by simp [betweenElements], by simp⟩

/-! ### What a running operation holds (R95 to R101) -/

section
variable {op : SeqCmd} {s : State}

theorem RunningInv.loop (h : RunningInv op s) (ha : isArrayOp op = true) :
    ∃ base n i, s.seqBase = some base ∧ s.seqN = some n ∧ s.seqI = some i ∧
      LoopAt s.cfg.strictArray n.toNat i.toNat s.seqPc :=
  arrayHeld_iff.mp h.arrays ha

/-- At a step with no check nothing is issued or in flight. -/
theorem RunningInv.unissued (h : RunningInv op s) (hx : expectAt s.seqPc = none) :
    s.seqIssued = false ∧ s.busy = false ∧ ∀ p, phaseAt s.seqPc = some p → s.phase = p := by
  have hn : s.seqIssued = false := by
    by_contra hi
    obtain ⟨n, l, hl, -⟩ := h.waiting (by simpa using hi)
    simp [hx] at hl
  exact ⟨hn, h.notIssued hn⟩

/-- The operands of every checked step are held. -/
theorem RunningInv.exists_startsAt (h : RunningInv op s) {n : StatusName} {l : SeqPc} (hx : expectAt s.seqPc = some (n, l)) :
    ∃ c, startsAt s = some c := by
  obtain ⟨a, ha⟩ := Option.isSome_iff_exists.mp (h.addrHeld (label_of_expectAt hx))
  have hdata := h.dataHeld
  unfold startsAt
  rw [ha]
  cases hpc : s.seqPc <;> simp only [hpc] at hx hdata ⊢
  case wb4 =>
    obtain ⟨d, hd⟩ := Option.isSome_iff_exists.mp (hdata rfl)
    exact ⟨.write d, by rw [hd]; rfl⟩
  case wb1 | wb2 | wb3 | rb1 | rb2 | rb3 | rb4 | rb5 | rb6 => exact ⟨_, rfl⟩
  all_goals cases hx

/-- R81: only the first START of a micro-program can be out of order. -/
theorem RunningInv.legal (h : RunningInv op s) (hn : s.seqIssued = false) {c : Pending} (hc : some c = startsAt s) :
    legalIn c.cmd s.phase = true ∨ (c = .start ∧ (s.seqPc = .wb1 ∨ s.seqPc = .rb1) ∧ s.phase = .mr) := by
  have hp := (h.notIssued hn).2
  unfold startsAt at hc
  cases hpc : s.seqPc <;> simp only [hpc] at hc hp
  case wb1 | rb1 =>
    cases hc
    by_cases hmr : s.phase = .mr
    · exact .inr ⟨rfl, by simp, hmr⟩
    · exact .inl (legalIn_start hmr)
  case rb4 | rb6 =>
    cases hc
    exact .inl (by rw [hp _ rfl]; rfl)
  case wb2 | wb3 | wb4 | rb2 | rb3 | rb5 =>
    obtain ⟨x, -, rfl⟩ := Option.map_eq_some_iff.mp hc.symm
    exact .inl (by rw [hp _ rfl]; rfl)
  all_goals cases hc

end

/-- R55: where the device's invariant holds, the device takes the stop condition. -/
theorem DeviceInv.takesStop {s : State} (hd : DeviceInv s) (c : Cause) : ∃ d, s.dev.stopCondition c = .ok d := by
  by_cases hw : s.dev.wst = .wFull
  · obtain ⟨ptr, hp⟩ := Option.isSome_iff_exists.mp (hd.ptrHeld (.inr (.inl hw)))
    obtain ⟨v, hv⟩ := Option.isSome_iff_exists.mp (hd.wpendHeld hw)
    exact ⟨_, stopCondition_wFull hw hp hv⟩
  · exact ⟨_, stopCondition_of_not_full hw⟩

theorem prim_fault {c : EngineCmd} {n : StatusName} {pass : State → State} {s : State} {f : Fault}
    (hn : s.seqIssued = false) (hf : issueFault c s = some f) : prim c n pass s = .error (.fault f) := by
  simp [prim, hn, issue, hf]

/-! ### Every turn is one of these -/

section
variable {op : SeqCmd} {s : State} (hi : MachineInv s) (hrun : RunningInv op s)
include hi hrun

theorem microStep_check {n : StatusName} {l : SeqPc} (hx : expectAt s.seqPc = some (n, l)) :
    MicroStep op s (seqStep op s) := by
  obtain ⟨c, hc⟩ := hrun.exists_startsAt hx
  rw [seqStep_prim hc hx]
  cases hn : s.seqIssued with
  | false =>
    have hb := (hrun.notIssued hn).1
    rcases hrun.legal hn hc.symm with hlegal | ⟨rfl, hpc, hp⟩
    · rw [prim_issue hn hrun.enabled hb hlegal]
      exact .issued c hc n l hx hn
    · rw [prim_fault hn (issueFault_outOfOrder hrun.enabled hb (by rw [hp]; rfl))]
      exact .outOfOrder hpc hn hp
  | true =>
    cases hr : s.ready with
    | false =>
      rw [prim_held hn hr]
      exact .held hn hr
    | true =>
      obtain ⟨raw, hraw⟩ := Option.isSome_iff_exists.mp (hi.engine.readyStatus.symm.trans hr)
      by_cases hcode : maskStatus raw = s.cfg.sc.code n
      · rw [prim_expected hn hr hraw hcode]
        exact .expected n l raw hx hn hr hraw hcode
      · rw [prim_unexpected hn hr hraw hcode]
        exact .unexpected n l hx hr

theorem microStep_stop {l : SeqPc} (hl : StopStep s.seqPc l) : MicroStep op s (seqStep op s) := by
  have hx : expectAt s.seqPc = none := by obtain ⟨h, -⟩ | ⟨h, -⟩ := hl <;> rw [h] <;> rfl
  obtain ⟨-, hb, hp⟩ := hrun.unissued hx
  have hlegal : legalIn .stop s.phase = true := by
    obtain ⟨h, -⟩ | ⟨h, -⟩ := hl <;> rw [h] at hp <;> rw [hp _ rfl] <;> rfl
  obtain ⟨d, hd⟩ := hi.device.takesStop (.command (encodeEngine .stop))
  rw [seqStep_stop hl, primStop_eq (d := s.remoteDev d) hrun.enabled hb hlegal
    (fun hm => by rw [State.remoteDev_ref hm, hd]) (fun hm => State.remoteDev_oracle hm d)]
  exact .stopped l _ hl

omit hi in
theorem microStep_finish (r : Result) (hpc : s.seqPc = .wb6 ∨ s.seqPc = .rb8 ∨ s.seqPc = .err) :
    MicroStep op s (finishByte op r s) := by
  cases op with
  | writeByte a d => exact .byteEnded r s.rdata rfl hpc
  | readByte a => exact .byteEnded r _ rfl hpc
  | writeArray a x => exact .elementEnded r s.buf id .wa2 (.inl rfl) rfl hpc
  | readArray a x =>
    obtain ⟨base, n, i, -, -, hseqI, hat⟩ := hrun.loop rfl
    have hlt : i.toNat < n.toNat := hat.lt (by obtain h | h | h := hpc <;> rw [h] <;> rfl)
    have := n.isLt
    rw [finishByte_readArray hseqI (by omega)]
    exact .elementEnded r _ (bufSet_wf _ _) .ra2 (.inr rfl) rfl hpc

omit hi in
theorem microStep_writeHead (hpc : s.seqPc = .wa1) (ha : isArrayOp op = true) :
    MicroStep op s (writeLoopHead op s) := by
  obtain ⟨base, n, i, hbase, hn, hseqI, hat⟩ := hrun.loop ha
  obtain heq | hlt := hat.le.eq_or_lt
  · rw [writeLoopHead_done hseqI hn heq]
    exact .loopDone .wa4 (.inl ⟨hpc, rfl⟩) i n hseqI hn heq
  · rw [writeLoopHead_below hseqI hn hlt hbase]
    cases hb : bufGet (i.setWidth 8) s.buf with
    | none => exact .missing hpc i hseqI hb
    | some d => exact .element .wb1 _ (some d) s.seqRd (.inl ⟨hpc, rfl, rfl⟩) i n hseqI hn hlt

omit hi in
theorem microStep_readHead (hpc : s.seqPc = .ra1) (ha : isArrayOp op = true) : MicroStep op s (readLoopHead op s) := by
  obtain ⟨base, n, i, hbase, hn, hseqI, hat⟩ := hrun.loop ha
  obtain heq | hlt := hat.le.eq_or_lt
  · rw [readLoopHead_done hseqI hn heq]
    exact .loopDone .ra4 (.inr ⟨hpc, rfl⟩) i n hseqI hn heq
  · rw [readLoopHead_below hseqI hn hlt hbase]
    exact .element .rb1 _ s.seqData none (.inr ⟨hpc, rfl⟩) i n hseqI hn hlt

omit hi in
theorem microStep_loopNext {l : SeqPc} (hl : (s.seqPc = .wa3 ∧ l = .wa1) ∨ (s.seqPc = .ra3 ∧ l = .ra1))
    (ha : isArrayOp op = true) : MicroStep op s (loopNext op l s) := by
  obtain ⟨base, n, i, -, -, hseqI, -⟩ := hrun.loop ha
  by_cases h : s.cfg.strictArray = true ∧ s.seqR = some .error
  · rw [loopNext_abort h]
    exact .aborted (hl.imp And.left And.left) h.1
  · rw [loopNext_next h hseqI]
    exact .next l hl i hseqI

/-- Every turn of a running operation, by its label. -/
theorem microStep : MicroStep op s (seqStep op s) := by
  have hlabel := hrun.label
  have harray : isWriteLabel s.seqPc = false ∧ isReadLabel s.seqPc = false → s.seqPc ≠ .err → isArrayOp op = true :=
    isArrayOp_of_label hlabel
  cases hpc : s.seqPc <;> rw [hpc] at harray hlabel
  case idle => cases op <;> cases hlabel
  case wb1 | wb2 | wb3 | wb4 | rb1 | rb2 | rb3 | rb4 | rb5 | rb6 => exact microStep_check hi hrun (by rw [hpc]; rfl)
  case wb5 => exact microStep_stop hi hrun (.inl ⟨hpc, rfl⟩)
  case rb7 => exact microStep_stop hi hrun (.inr ⟨hpc, rfl⟩)
  case wb6 => exact seqStep_success (.inl hpc) ▸ microStep_finish hrun .success (.inl hpc)
  case rb8 => exact seqStep_success (.inr hpc) ▸ microStep_finish hrun .success (.inr (.inl hpc))
  case err => exact seqStep_error hpc ▸ microStep_finish hrun .error (.inr (.inr hpc))
  case wa1 => exact seqStep_wa1 hpc ▸ microStep_writeHead hrun hpc (harray (by decide) (by decide))
  case ra1 => exact seqStep_ra1 hpc ▸ microStep_readHead hrun hpc (harray (by decide) (by decide))
  case wa2 => exact seqStep_wa2 hpc ▸ .delayed .wa3 (.inl ⟨hpc, rfl⟩)
  case ra2 => exact seqStep_ra2 hpc ▸ .delayed .ra3 (.inr ⟨hpc, rfl⟩)
  case wa3 => exact seqStep_wa3 hpc ▸ microStep_loopNext hrun (.inl ⟨hpc, rfl⟩) (harray (by decide) (by decide))
  case ra3 => exact seqStep_ra3 hpc ▸ microStep_loopNext hrun (.inr ⟨hpc, rfl⟩) (harray (by decide) (by decide))
  case wa4 => exact seqStep_loopEnd (.inl hpc) ▸ .loopEnded (.inl hpc)
  case ra4 => exact seqStep_loopEnd (.inr hpc) ▸ .loopEnded (.inr hpc)
  case seqEnd => exact seqStep_seqEnd hpc ▸ .arrayEnded hpc

end

theorem MachineInv.seqReady {s : State} (hi : MachineInv s) {op : SeqCmd} (ho : s.seqOp = some op) :
    s.seqReady = false := by
  simpa [ho] using hi.sequencer.readyOp

/-- Settles O39: of the turns of `MicroStep` two raise a fault. -/
theorem sequencerFaultsOnlyWhereStated : Obligations.SequencerFaultsOnlyWhereStated := by
  intro op s t hi hl ho h
  have hm := microStep hi (hi.sequencer.running op ho)
  rw [sequencerTurn_eq hl ho (hi.seqReady ho)] at h
  cases h
  generalize seqStep op s = r at hm ⊢
  cases hm with
  | outOfOrder hpc hn hp => exact .inr (.inl ⟨hpc, hn, hp, rfl⟩)
  | missing hpc i hseqI hb => exact .inr (.inr ⟨hpc, ⟨i, hseqI, hb⟩, rfl⟩)
  | _ => exact .inl hl.1

/-! ### What a completed phase does (R82 to R89) -/

/-- The status name, the new PHASE and the event of a completed phase from PHASE ph, in either mode. -/
inductive Completed (ph : Phase) : Pending → StatusName → Phase → BusEvent → Prop where
  | busError (c : Pending) : Completed ph c .busError .idle .berr
  | start : Completed ph .start (if ph = .idle then .start else .repeatedStart) .addr (if ph = .idle then .s else .sr)
  | write (b : Byte) (k : AckBit) : Completed ph (.write b) (writeStatus ph b k) (writePhase ph b k) (.tx b k)
  | readAck (v : Byte) : Completed ph .readAck .dataRxAck .mr (.rx v .ack)
  | readNack (v : Byte) : Completed ph .readNack .dataNack .hold (.rx v .nack)

theorem completeStart_completed (s : State) : ∃ e, (completeStart s).2.trace = s.trace ++ [e] ∧
    Completed s.phase .start (completeStart s).1 (completeStart s).2.phase e := by
  have h := Completed.start (ph := s.phase)
  by_cases hp : s.phase = .idle
  · exact ⟨.s, by simp [completeStart, hp], by simpa [completeStart, hp] using h⟩
  · exact ⟨.sr, by simp [completeStart, hp], by simpa [completeStart, hp] using h⟩

theorem completeRead_result {c : Pending} {k : AckBit} {m n : StatusName} {ph : Phase} {a : BusAnswer} {s u : State}
    (h : completeRead c k m ph a s = .ok (n, u)) : n = m ∧ u.phase = ph ∧ ∃ v, u.trace = s.trace ++ [.rx v k] := by
  unfold completeRead at h
  split at h
  · cases h
  · rename_i v w hv
    obtain ⟨d, rfl, -⟩ := remoteByte_ok hv
    cases h
    exact ⟨rfl, rfl, v, rfl⟩

theorem completion_completed {c : Pending} {a : BusAnswer} {s u : State} {n : StatusName}
    (h : completion c a s = .ok (n, u)) : ∃ e, u.trace = s.trace ++ [e] ∧ Completed s.phase c n u.phase e := by
  unfold completion at h
  split at h
  · cases h
    exact ⟨.berr, busError_trace s, by rw [busError_phase]; exact .busError c⟩
  · cases c with
    | start =>
      have hs := completeStart_completed s
      rwa [Except.ok.inj h] at hs
    | write b =>
      simp only [completeWrite] at h
      split at h
      · cases h
      · rename_i k v hk
        obtain ⟨d, rfl, -⟩ := remoteAnswer_ok hk
        cases h
        exact ⟨.tx b k, rfl, .write b k⟩
    | readAck =>
      obtain ⟨rfl, hp, v, htrace⟩ := completeRead_result h
      exact ⟨_, htrace, by rw [hp]; exact .readAck v⟩
    | readNack =>
      obtain ⟨rfl, hp, v, htrace⟩ := completeRead_result h
      exact ⟨_, htrace, by rw [hp]; exact .readNack v⟩

/-- A completed write that is no bus error. -/
theorem Completed.write_ne {ph q : Phase} {b : Byte} {n : StatusName} {e : BusEvent} (h : Completed ph (.write b) n q e)
    (hn : n ≠ .busError) : ∃ k, n = writeStatus ph b k ∧ q = writePhase ph b k := by
  cases h with
  | busError => exact absurd rfl hn
  | write _ k => exact ⟨k, rfl, rfl⟩

/-- R87: the three statuses that a micro-program's writes pass with say the PHASE. -/
theorem writePhase_of_writeStatus (ph : Phase) (b : Byte) (k : AckBit) :
    (writeStatus ph b k = .addressAckW ∨ writeStatus ph b k = .dataAck → writePhase ph b k = .mt) ∧
    (writeStatus ph b k = .addressAckR → writePhase ph b k = .mr) := by
  cases k with
  | nack => by_cases hp : ph = .addr <;> by_cases hb : b.extractLsb' 0 1 = 0#1 <;> simp [writeStatus, hp, hb]
  | ack => by_cases hp : ph = .addr <;> by_cases hb : b.extractLsb' 0 1 = 0#1 <;> simp [writeStatus, writePhase, hp, hb]

/-- R97, R98: a phase of a micro-program that completes with the status its step expects leaves the PHASE of the next step. -/
theorem Completed.phaseAt_next {s : State} {c : Pending} {n : StatusName} {l : SeqPc} {q : Phase} {e : BusEvent}
    (h : Completed s.phase c n q e) (hc : some c = startsAt s) (hx : expectAt s.seqPc = some (n, l)) {p : Phase}
    (hp : phaseAt l = some p) : q = p := by
  unfold startsAt at hc
  cases hpc : s.seqPc <;> simp only [hpc] at hc hx <;> cases hx <;> cases hp
  case wb1 | rb1 =>
    cases hc
    generalize hn : StatusName.start = n at h
    cases h with
    | start => rfl
    | busError => cases hn
  case rb4 =>
    cases hc
    generalize hn : StatusName.repeatedStart = n at h
    cases h with
    | start => rfl
    | busError => cases hn
  case rb6 =>
    cases hc
    cases h
    rfl
  case wb2 | wb3 | wb4 | rb2 | rb3 =>
    obtain ⟨x, -, rfl⟩ := Option.map_eq_some_iff.mp hc.symm
    obtain ⟨k, hk, rfl⟩ := h.write_ne (by simp)
    exact (writePhase_of_writeStatus _ _ _).1 (by simp [← hk])
  case rb5 =>
    obtain ⟨x, -, rfl⟩ := Option.map_eq_some_iff.mp hc.symm
    obtain ⟨k, hk, rfl⟩ := h.write_ne (by simp)
    exact (writePhase_of_writeStatus _ _ _).2 hk.symm

/-! ### The registers of a running operation -/

/-- The sequencer's registers with RESULT and BUF, but for SEQ_R and SEQ_RD, which no invariant reads. -/
structure SequencerRegs where
  seqReady : Bool
  seqOp : Option SeqCmd
  seqPc : SeqPc
  seqIssued : Bool
  seqAddr : Option LAddr
  seqData : Option Byte
  seqBase : Option LAddr
  seqN : Option Byte
  seqI : Option (BitVec 9)
  result : Option Result
  buf : Cells

/-- Those registers of s. -/
def State.sequencerRegs (s : State) : SequencerRegs :=
  ⟨s.seqReady, s.seqOp, s.seqPc, s.seqIssued, s.seqAddr, s.seqData, s.seqBase, s.seqN, s.seqI, s.result, s.buf⟩

@[simp] theorem State.sequencerRegs_useTurn (s : State) : s.useTurn.sequencerRegs = s.sequencerRegs := by
  simp [State.sequencerRegs]

/-- R82: a completion leaves the sequencer's registers, the parameters and EN, and sets READY. -/
theorem complete_completed {c : Pending} {s t : State} (h : complete c s = .ok t) :
    ∃ n low e, Completed s.phase c n t.phase e ∧ t.trace = s.trace ++ [e] ∧
      t.statusRaw = some (s.cfg.sc.code n ||| BitVec.setWidth 8 (low : BitVec 3)) ∧
      t.busy = false ∧ t.ready = true ∧ t.cfg = s.cfg ∧ t.en = s.en ∧ t.sequencerRegs = s.sequencerRegs := by
  obtain ⟨n, u, hu, rfl⟩ := complete_ok h
  obtain ⟨e, htrace, hc⟩ := completion_completed hu
  obtain ⟨d, x, ph, tr, rfl⟩ := completion_ok hu
  exact ⟨n, s.nextAnswer.low, e, by simpa using hc, by simpa using htrace, by simp, by simp, by simp, by simp, by simp,
    by simp [State.sequencerRegs]⟩

theorem arrayHeld_congr {op : SeqCmd} {s t : State} (h : arrayHeld op s) (hcfg : t.cfg = s.cfg) (hpc : t.seqPc = s.seqPc)
    (hbase : t.seqBase = s.seqBase) (hn : t.seqN = s.seqN) (hi : t.seqI = s.seqI) : arrayHeld op t := by
  rw [arrayHeld_iff] at h ⊢
  rwa [hcfg, hpc, hbase, hn, hi]

theorem RunningInv.congr {op : SeqCmd} {s t : State} (h : RunningInv op s) (he : t.engineRegs = s.engineRegs)
    (hs : t.sequencerRegs = s.sequencerRegs) : RunningInv op t := by
  simp only [State.engineRegs, EngineRegs.mk.injEq] at he
  simp only [State.sequencerRegs, SequencerRegs.mk.injEq] at hs
  obtain ⟨hcfg, hen, -, -, hready, hraw, hphase, hbusy, hpend, -, -⟩ := he
  obtain ⟨-, hop, hpc, hissued, haddr, hdata, hbase, hn, hi, -, -⟩ := hs
  obtain ⟨h1, h2, h3, h4, h5, h6, h7⟩ := h
  refine ⟨?_, ?_, ?_, ?_, arrayHeld_congr h5 hcfg hpc hbase hn hi, ?_, ?_⟩ <;>
    simpa only [startsAt, hcfg, hen, hready, hraw, hphase, hbusy, hpend, hpc, hissued, haddr, hdata]

theorem SequencerInv.congr {s t : State} (h : SequencerInv s) (he : t.engineRegs = s.engineRegs)
    (hs : t.sequencerRegs = s.sequencerRegs) : SequencerInv t := by
  have hregs := hs
  simp only [State.sequencerRegs, SequencerRegs.mk.injEq] at hregs
  obtain ⟨hready, hop, hpc, hissued, -⟩ := hregs
  refine ⟨?_, ?_, fun op ho => (h.running op (hop ▸ ho)).congr he hs⟩
  · rw [hready, hop]
    exact h.readyOp
  · rw [hop, hpc, hissued]
    exact h.idle

/-- R27, R31: no operation runs. -/
theorem SequencerInv.of_idle {s : State} (hr : s.seqReady = true) (ho : s.seqOp = none) (hpc : s.seqPc = .idle)
    (hi : s.seqIssued = false) : SequencerInv s :=
  ⟨by simp [hr, ho], fun _ => ⟨hpc, hi⟩, by simp [ho]⟩

theorem SequencerInv.of_running {op : SeqCmd} {s : State} (hr : s.seqReady = false) (ho : s.seqOp = some op)
    (h : RunningInv op s) : SequencerInv s :=
  ⟨by simp [hr, ho], by simp [ho], fun op' ho' => Option.some.inj (ho.symm.trans ho') ▸ h⟩

/-! ### A turn of the sequencer keeps its invariant (R95 to R101) -/

theorem phaseAt_label {l : SeqPc} (h : isWriteLabel l = false ∧ isReadLabel l = false) : phaseAt l = none := by
  cases l <;> simp [isWriteLabel, isReadLabel] at h <;> rfl

/-- At a label of no micro-program, with nothing issued, the invariant is about the array's registers alone. -/
theorem RunningInv.of_outside {op : SeqCmd} {t : State} (hlabel : labelOf op t.seqPc = true) (he : t.en = true)
    (harrays : arrayHeld op t) (hn : t.seqIssued = false) (hb : t.busy = false)
    (hl : isWriteLabel t.seqPc = false ∧ isReadLabel t.seqPc = false) : RunningInv op t :=
  ⟨hlabel, he, by simp [hl], by simp [hl], harrays, fun _ => ⟨hb, by simp [phaseAt_label hl]⟩, by simp [hn]⟩

/-- The array's registers are kept, and the loop's label moves on. -/
theorem arrayHeld_of_move {op : SeqCmd} {s t : State} (h : arrayHeld op s) (hcfg : t.cfg = s.cfg)
    (hbase : t.seqBase = s.seqBase) (hn : t.seqN = s.seqN) (hi : t.seqI = s.seqI)
    (hmove : ∀ n i, s.seqN = some n → s.seqI = some i → LoopAt s.cfg.strictArray n.toNat i.toNat s.seqPc →
      LoopAt s.cfg.strictArray n.toNat i.toNat t.seqPc) : arrayHeld op t := by
  rw [arrayHeld_iff] at h ⊢
  intro ha
  obtain ⟨base, n, i, hbase', hn', hi', hat⟩ := h ha
  exact ⟨base, n, i, hbase.trans hbase', hn.trans hn', hi.trans hi', hcfg ▸ hmove n i hn' hi' hat⟩

/-- The loop stays inside an element. -/
theorem arrayHeld_inside {op : SeqCmd} {s t : State} (h : arrayHeld op s) (hcfg : t.cfg = s.cfg)
    (hbase : t.seqBase = s.seqBase) (hn : t.seqN = s.seqN) (hi : t.seqI = s.seqI)
    (hs : betweenElements s.seqPc = false) (ht : betweenElements t.seqPc = false) : arrayHeld op t :=
  arrayHeld_of_move h hcfg hbase hn hi fun _ _ _ _ hat => .of_lt (hat.lt hs) ht

theorem betweenElements_of_micro {l : SeqPc} (h : isWriteLabel l = true ∨ isReadLabel l = true) :
    betweenElements l = false := by
  cases l <;> simp [isWriteLabel, isReadLabel] at h <;> rfl

section
variable {op : SeqCmd} {s : State} (hrun : RunningInv op s)
include hrun

/-- A step to another label of the same micro-program. -/
theorem RunningInv.of_micro {t : State} (he : t.en = s.en) (haddr : t.seqAddr = s.seqAddr) (hdata : t.seqData = s.seqData)
    (hcfg : t.cfg = s.cfg) (hbase : t.seqBase = s.seqBase) (hn : t.seqN = s.seqN) (hi : t.seqI = s.seqI)
    (hl : isWriteLabel s.seqPc = true ∨ isReadLabel s.seqPc = true)
    (hm : isWriteLabel t.seqPc = isWriteLabel s.seqPc ∧ isReadLabel t.seqPc = isReadLabel s.seqPc)
    (hissued : t.seqIssued = false) (hb : t.busy = false) (hp : ∀ p, phaseAt t.seqPc = some p → t.phase = p) :
    RunningInv op t where
  label := labelOf_micro hrun.label hl hm
  enabled := he.trans hrun.enabled
  addrHeld := by rw [hm.1, hm.2, haddr]; exact hrun.addrHeld
  dataHeld := by rw [hm.1, hdata]; exact hrun.dataHeld
  arrays := arrayHeld_inside hrun.arrays hcfg hbase hn hi (betweenElements_of_micro hl)
    (betweenElements_of_micro (by rwa [hm.1, hm.2]))
  notIssued _ := ⟨hb, hp⟩
  waiting := by simp [hissued]

theorem RunningInv.issued {c : Pending} (hc : startsAt s = some c) {n : StatusName} {l : SeqPc}
    (hx : expectAt s.seqPc = some (n, l)) (hn : s.seqIssued = false) : RunningInv op (s.issued c s.turns) where
  label := hrun.label
  enabled := hrun.enabled
  addrHeld := hrun.addrHeld
  dataHeld := hrun.dataHeld
  arrays := hrun.arrays
  notIssued h := by cases h
  waiting _ := ⟨n, l, hx, fun _ => ⟨hc.symm, (hrun.notIssued hn).2⟩, fun h => by cases h⟩

/-- R95: the passed check says that the PHASE is the one of the next step. -/
theorem RunningInv.expected (hready : s.ready = true → s.busy = false) {n : StatusName} {l : SeqPc} {raw : Byte}
    (hx : expectAt s.seqPc = some (n, l)) (hi : s.seqIssued = true) (hr : s.ready = true) (hraw : s.statusRaw = some raw)
    (hcode : maskStatus raw = s.cfg.sc.code n) : RunningInv op ({ s with seqIssued := false }.passTo l) := by
  obtain ⟨n', l', hx', -, hidle⟩ := hrun.waiting hi
  cases hx.symm.trans hx'
  exact hrun.of_micro (t := { s with seqIssued := false }.passTo l) rfl rfl rfl rfl rfl rfl rfl (label_of_expectAt hx)
    (expectAt_label hx) rfl (hready hr) ((hidle (hready hr)).2 raw hraw hcode)

end

theorem exists_writeArray {op : SeqCmd} {l : SeqPc} (h : labelOf op l = true)
    (hl : l = .wa1 ∨ l = .wa2 ∨ l = .wa3 ∨ l = .wa4) : ∃ a x, op = .writeArray a x := by
  cases op with
  | writeArray a x => exact ⟨a, x, rfl⟩
  | _ => obtain rfl | rfl | rfl | rfl := hl <;> cases h

theorem exists_readArray {op : SeqCmd} {l : SeqPc} (h : labelOf op l = true)
    (hl : l = .ra1 ∨ l = .ra2 ∨ l = .ra3 ∨ l = .ra4) : ∃ a x, op = .readArray a x := by
  cases op with
  | readArray a x => exact ⟨a, x, rfl⟩
  | _ => obtain rfl | rfl | rfl | rfl := hl <;> cases h

/-- m is a label of the array operation whose loop l belongs to. -/
abbrev InLoopOf (l m : SeqPc) : Prop :=
  ((l = .wa1 ∨ l = .wa2 ∨ l = .wa3 ∨ l = .wa4) ∧ labelOf (.writeArray 0#16 0#8) m = true) ∨
  ((l = .ra1 ∨ l = .ra2 ∨ l = .ra3 ∨ l = .ra4) ∧ labelOf (.readArray 0#16 0#8) m = true)

theorem InLoopOf.labelOf_next {op : SeqCmd} {l m : SeqPc} (hlm : InLoopOf l m) (h : labelOf op l = true) :
    labelOf op m = true := by
  obtain ⟨hl, hm⟩ | ⟨hl, hm⟩ := hlm
  · obtain ⟨a, x, rfl⟩ := exists_writeArray h hl
    exact hm
  · obtain ⟨a, x, rfl⟩ := exists_readArray h hl
    exact hm

theorem index_succ {i : BitVec 9} {n : Byte} (h : i.toNat < n.toNat) : (i + 1#9).toNat = i.toNat + 1 := by
  have := n.isLt
  rw [BitVec.toNat_add]
  exact Nat.mod_eq_of_lt (by simp; omega)

section
variable {op : SeqCmd} {s t : State} {l m : SeqPc}

/-- A loop's step from label l to label m, neither in a micro-program. -/
theorem RunningInv.of_loopStep (hrun : RunningInv op s) (hs : s.seqPc = l) (ht : t.seqPc = m)
    (hlm : InLoopOf l m ∧ expectAt l = none ∧ isWriteLabel m = false ∧ isReadLabel m = false) (he : t.en = s.en)
    (hissued : t.seqIssued = s.seqIssued) (hbusy : t.busy = s.busy) (harrays : arrayHeld op t) : RunningInv op t := by
  subst hs ht
  obtain ⟨hin, hx, hout⟩ := hlm
  obtain ⟨hn, hb, -⟩ := hrun.unissued hx
  exact .of_outside (hin.labelOf_next hrun.label) (he.trans hrun.enabled) harrays (hissued.trans hn) (hbusy.trans hb) hout

/-- R100, R101: the operands of the next element are loaded. -/
theorem RunningInv.element (hrun : RunningInv op s) (a : LAddr) (d rd : Option Byte) {i : BitVec 9} {n : Byte}
    (hl : (s.seqPc = .wa1 ∧ l = .wb1 ∧ d.isSome = true) ∨ (s.seqPc = .ra1 ∧ l = .rb1)) (hi : s.seqI = some i)
    (hn : s.seqN = some n) (hlt : i.toNat < n.toNat) :
    RunningInv op ({ s with seqAddr := some a, seqData := d, seqRd := rd }.goto l) := by
  have hlm : InLoopOf s.seqPc l ∧ expectAt s.seqPc = none ∧ phaseAt l = none ∧ betweenElements l = false := by
    obtain ⟨h, rfl, -⟩ | ⟨h, rfl⟩ := hl <;> rw [h] <;> decide
  obtain ⟨hin, hx, hp, hout⟩ := hlm
  obtain ⟨hissued, hb, -⟩ := hrun.unissued hx
  refine ⟨hin.labelOf_next hrun.label, hrun.enabled, fun _ => rfl, fun hw => ?_, ?_, fun _ => ⟨hb, by simp [hp]⟩,
    by simp [hissued]⟩
  · obtain ⟨-, -, hd⟩ | ⟨-, rfl⟩ := hl
    · exact hd
    · cases hw
  · refine arrayHeld_of_move hrun.arrays rfl rfl rfl rfl fun n' i' hn' hi' _ => ?_
    cases hi.symm.trans hi'
    cases hn.symm.trans hn'
    exact .of_lt hlt hout

/-- R100, R101: SEQ_I counts on. -/
theorem arrayHeld_next (h : arrayHeld op s) {i : BitVec 9} (hi : s.seqI = some i) (hs : betweenElements s.seqPc = false)
    (hl : l = .wa1 ∨ l = .ra1) : arrayHeld op ({ s with seqI := some (i + 1#9) }.goto l) := by
  rw [arrayHeld_iff] at h ⊢
  intro ha
  obtain ⟨base, n, i', hbase, hn, hi', hat⟩ := h ha
  cases hi.symm.trans hi'
  have hlt := hat.lt hs
  exact ⟨base, n, i + 1#9, hbase, hn, rfl, .head (by rw [index_succ hlt]; exact hlt) hl⟩

end

/-- R95 to R101: every turn of a running operation that raises no fault keeps the sequencer's invariant. -/
theorem MicroStep.sequencerInv {op : SeqCmd} {s t : State} (h : MicroStep op s (.ok t)) (hi : MachineInv s)
    (ho : s.seqOp = some op) : SequencerInv t := by
  have hrun := hi.sequencer.running op ho
  have hr := hi.seqReady ho
  cases h with
  | held => exact hi.sequencer
  | issued c hc n l hx hn => exact .of_running hr ho (hrun.issued hc hx hn)
  | expected n l raw hx hissued hready hraw hcode =>
    exact .of_running hr ho (hrun.expected hi.engine.readyIdle hx hissued hready hraw hcode)
  | unexpected n l hx hready =>
    have harrays : arrayHeld op ({ s with seqIssued := false }.goto .err) :=
      arrayHeld_inside hrun.arrays rfl rfl rfl rfl (betweenElements_of_micro (label_of_expectAt hx)) rfl
    exact .of_running hr ho (.of_outside (labelOf_err op) hrun.enabled harrays rfl (hi.engine.readyIdle hready) ⟨rfl, rfl⟩)
  | stopped l d hl =>
    have hlabels : (isWriteLabel s.seqPc = true ∨ isReadLabel s.seqPc = true) ∧ expectAt s.seqPc = none ∧
        phaseAt l = none := by
      obtain ⟨h, rfl⟩ | ⟨h, rfl⟩ := hl <;> rw [h] <;> decide
    obtain ⟨hmicro, hx, hp⟩ := hlabels
    obtain ⟨hn, hb, -⟩ := hrun.unissued hx
    exact .of_running hr ho (hrun.of_micro (t := { s.stopEngine with dev := d }.goto l) rfl rfl rfl rfl rfl rfl rfl hmicro
      (stopStep_label hl) hn hb (by simp [hp]))
  | byteEnded r x hop hpc =>
    have hx : expectAt s.seqPc = none := by obtain h | h | h := hpc <;> rw [h] <;> rfl
    exact .of_idle rfl rfl rfl (hrun.unissued hx).1
  | elementEnded r b hb l hl hlabel hpc =>
    have hlabels : expectAt s.seqPc = none ∧ betweenElements s.seqPc = false := by
      obtain h | h | h := hpc <;> rw [h] <;> decide
    obtain ⟨hx, hin⟩ := hlabels
    have hout : betweenElements l = false ∧ isWriteLabel l = false ∧ isReadLabel l = false := by
      obtain rfl | rfl := hl <;> decide
    obtain ⟨hn, hb, -⟩ := hrun.unissued hx
    exact .of_running hr ho (.of_outside hlabel hrun.enabled
      (arrayHeld_inside hrun.arrays rfl rfl rfl rfl hin hout.1) hn hb hout.2)
  | loopDone l hl i n hseqI hseqN he =>
    have harrays : betweenElements l = true → arrayHeld op (s.goto l) := fun hends =>
      arrayHeld_of_move hrun.arrays rfl rfl rfl rfl fun n' i' hn' hi' _ => by
        cases hseqI.symm.trans hi'
        cases hseqN.symm.trans hn'
        exact .of_eq he hends
    obtain ⟨h, rfl⟩ | ⟨h, rfl⟩ := hl <;>
      exact .of_running hr ho (hrun.of_loopStep h (State.goto_seqPc _ _) (by decide) rfl rfl rfl (harrays rfl))
  | element l a d rd hl i n hseqI hseqN hlt => exact .of_running hr ho (hrun.element a d rd hl hseqI hseqN hlt)
  | delayed l hl =>
    obtain ⟨h, rfl⟩ | ⟨h, rfl⟩ := hl <;>
      exact .of_running hr ho (hrun.of_loopStep h (State.goto_seqPc _ _) (by decide) rfl rfl rfl
        (arrayHeld_inside hrun.arrays rfl rfl rfl rfl (by rw [h]; rfl) rfl))
  | aborted hpc hs =>
    have harrays : arrayHeld op ({ s with result := some .error }.goto .seqEnd) :=
      arrayHeld_of_move hrun.arrays rfl rfl rfl rfl fun _ _ _ _ hat => hs ▸ .abort hat.le
    obtain h | h := hpc <;> exact .of_running hr ho (hrun.of_loopStep h (State.goto_seqPc _ _) (by decide) rfl rfl rfl harrays)
  | next l hl i hseqI =>
    obtain ⟨h, rfl⟩ | ⟨h, rfl⟩ := hl <;>
      exact .of_running hr ho (hrun.of_loopStep h (State.goto_seqPc _ _) (by decide) rfl rfl rfl
        (arrayHeld_next hrun.arrays hseqI (by rw [h]; rfl) (by decide)))
  | loopEnded hpc =>
    have harrays : arrayHeld op (loopEnd s) := arrayHeld_of_move hrun.arrays rfl rfl rfl rfl fun _ _ _ _ hat =>
      .of_eq (hat.eq (hpc.imp_right .inl)) rfl
    obtain h | h := hpc <;> exact .of_running hr ho (hrun.of_loopStep h (State.goto_seqPc _ _) (by decide) rfl rfl rfl harrays)
  | arrayEnded hpc => exact .of_idle rfl rfl rfl (hrun.unissued (by rw [hpc]; rfl)).1

/-- R30: BUF keeps its canonical form. -/
theorem MicroStep.buf_wf {op : SeqCmd} {s t : State} (h : MicroStep op s (.ok t)) (hb : bufWf s.buf = true) :
    bufWf t.buf = true := by
  cases h with
  | elementEnded r b hbuf => exact hbuf hb
  | _ => exact hb

/-! ### A transaction of the host keeps it (R92, R94) -/

theorem runningInv_loadOp (c : SeqCmd) {s : State} (he : s.en = true) (hb : s.busy = false) :
    RunningInv c ((s.beginOp c).loadOp c) := by
  cases c with
  | writeByte a d => exact ⟨rfl, he, fun _ => rfl, fun _ => rfl, trivial, fun _ => ⟨hb, nofun⟩, nofun⟩
  | readByte a => exact ⟨rfl, he, fun _ => rfl, nofun, trivial, fun _ => ⟨hb, nofun⟩, nofun⟩
  | writeArray a x =>
    exact .of_outside rfl he (arrayHeld_iff.mpr fun _ => ⟨a, x, 0#9, rfl, rfl, rfl, .head (Nat.zero_le _) (.inl rfl)⟩) rfl hb
      ⟨rfl, rfl⟩
  | readArray a x =>
    exact .of_outside rfl he (arrayHeld_iff.mpr fun _ => ⟨a, x, 0#9, rfl, rfl, rfl, .head (Nat.zero_le _) (.inr rfl)⟩) rfl hb
      ⟨rfl, rfl⟩

/-- R92, R94: the host issues an engine command or writes BUF only while no operation runs. -/
theorem HostEffect.sequencerInv {s t : State} (h : HostEffect s t) (hi : SequencerInv s) : SequencerInv t := by
  have hnone : s.seqReady = true → s.seqOp = none := fun hr => by simpa [hr] using hi.readyOp
  cases h with
  | raised | read => exact hi.congr rfl rfl
  | issued c _ hl hr h =>
    obtain ⟨hpc, hissued⟩ := hi.idle (hnone hr)
    cases issue_effect h <;> exact .of_idle hr (hnone hr) hpc hissued
  | seqIssued c _ hl hr h =>
    obtain ⟨he, hb, rfl⟩ := seqIssue_ok h
    have hrun := runningInv_loadOp c he hb
    cases c <;> exact .of_running rfl rfl hrun
  | buf i v hl hr =>
    obtain ⟨hpc, hissued⟩ := hi.idle (hnone hr)
    exact .of_idle hr (hnone hr) hpc hissued

theorem HostEffect.buf_wf {s t : State} (h : HostEffect s t) (hb : bufWf s.buf = true) : bufWf t.buf = true := by
  cases h with
  | raised | read => exact hb
  | issued c _ hl hr h => cases issue_effect h <;> exact hb
  | seqIssued c _ hl hr h =>
    obtain ⟨-, -, rfl⟩ := seqIssue_ok h
    cases c <;> exact hb
  | buf i v => exact bufSet_wf i (some v) hb

/-! ### A completion keeps it (R82) -/

/-- R82: the status of the completed phase says which name the check sees (R74), and that name the PHASE. -/
theorem RunningInv.completed {op : SeqCmd} {s t : State} {c : Pending} (hrun : RunningInv op s) (hl : s.live)
    (hissued : s.seqIssued = true) (hc : some c = startsAt s) (h : complete c s = .ok t) : RunningInv op t := by
  obtain ⟨m, low, e, hcomp, -, hraw, hbusy, hready, hcfg, hen, hregs⟩ := complete_completed h
  simp only [State.sequencerRegs, SequencerRegs.mk.injEq] at hregs
  obtain ⟨-, hop, hpc, hi, haddr, hdata, hbase, hn, hseqI, -, -⟩ := hregs
  obtain ⟨n, l, hx, -⟩ := hrun.waiting hissued
  refine ⟨by rw [hpc]; exact hrun.label, hen.trans hrun.enabled, by rw [hpc, haddr]; exact hrun.addrHeld,
    by rw [hpc, hdata]; exact hrun.dataHeld, arrayHeld_congr hrun.arrays hcfg hpc hbase hn hseqI,
    by simp [hi, hissued], fun _ => ⟨n, l, by rw [hpc]; exact hx, by simp [hbusy], fun _ => ⟨hready, ?_⟩⟩⟩
  intro raw hraw' hcode p hp
  have hname : m = n := code_injective hl.2 (by
    rw [← hcfg, ← hcode, ← Option.some.inj (hraw.symm.trans hraw'), hcfg, maskStatus_code hl.2])
  subst hname
  exact hcomp.phaseAt_next hc hx hp

theorem complete_sequencerInv {c : Pending} {s t : State} (hi : MachineInv s) (hl : s.live) (hp : s.pend = some c)
    (hb : s.busy = true) (h : complete c s = .ok t) : SequencerInv t := by
  obtain ⟨-, -, -, -, -, -, -, -, -, -, hregs⟩ := complete_completed h
  simp only [State.sequencerRegs, SequencerRegs.mk.injEq] at hregs
  obtain ⟨hr, hop, hpc, hissued, -⟩ := hregs
  refine ⟨by rw [hr, hop]; exact hi.sequencer.readyOp, by rw [hop, hpc, hissued]; exact hi.sequencer.idle, fun op ho => ?_⟩
  rw [hop] at ho
  obtain ⟨hs, hpend, -⟩ := hi.inFlight ho hb
  exact (hi.sequencer.running op ho).completed hl hs (hp.symm.trans hpend) h

theorem complete_buf {c : Pending} {s t : State} (h : complete c s = .ok t) : t.buf = s.buf := by
  obtain ⟨-, -, -, -, -, -, -, -, -, -, hregs⟩ := complete_completed h
  exact congrArg SequencerRegs.buf hregs

/-! ### Every step -/

theorem MachineInv.congr {s t : State} (hi : MachineInv s) (he : t.engineRegs = s.engineRegs) (hd : t.dev = s.dev)
    (hs : t.sequencerRegs = s.sequencerRegs) : MachineInv t := by
  have hcfg : t.cfg = s.cfg := congrArg EngineRegs.cfg he
  have hphase : t.phase = s.phase := congrArg EngineRegs.phase he
  have hbuf : t.buf = s.buf := congrArg SequencerRegs.buf hs
  exact ⟨hi.engine.congr he, hi.device.congr (congrArg _ hcfg) hphase hd, hi.sequencer.congr he hs, hbuf ▸ hi.bufWf⟩

theorem MachineInv.useTurn {s : State} (hi : MachineInv s) : MachineInv s.useTurn :=
  hi.congr s.engineRegs_useTurn s.useTurn_dev s.sequencerRegs_useTurn

/-- The turn of a running operation that a step takes. -/
theorem microStep_useTurn {op : SeqCmd} {s t : State} (hi : MachineInv s) (ho : s.seqOp = some op)
    (h : seqStep op s.useTurn = .ok t) : MicroStep op s.useTurn (.ok t) :=
  h ▸ microStep hi.useTurn (hi.useTurn.sequencer.running op (by simpa using ho))

/-- Settles O12: the engine's and the device's invariants are O10 and O11; the sequencer's and BUF's are kept by the turn of
each agent. -/
theorem everyStepKeepsTheMachineInvariant : Obligations.EveryStepKeepsTheMachineInvariant := by
  intro s t hi h
  have hu := hi.useTurn
  have hseq : SequencerInv t ∧ bufWf t.buf = true := by
    cases (step_effect h).2 with
    | config => exact ⟨hi.sequencer.congr rfl rfl, hi.bufWf⟩
    | pass | raised => exact ⟨hu.sequencer.congr rfl rfl, hu.bufWf⟩
    | host hl hg before after u he =>
      exact ⟨(he.sequencerInv (hu.sequencer.congr rfl rfl)).congr rfl rfl, he.buf_wf hu.bufWf⟩
    | sequencer hl hg op ho hr _ hs =>
      have hm := microStep_useTurn hi ho hs
      exact ⟨hm.sequencerInv hu (by simpa using ho), hm.buf_wf hu.bufWf⟩
    | bus hl hg c hp hb _ hc =>
      exact ⟨complete_sequencerInv hu (useTurn_live hl) (by simpa using hp) (by simpa using hb) hc,
        complete_buf hc ▸ hu.bufWf⟩
  exact ⟨everyStepKeepsTheEngineInvariant s t hi.engine h, everyStepKeepsTheDeviceInvariant s t hi.device h, hseq.1, hseq.2⟩

/-! ### DELAY events and elements (R100, R101, R103) -/

/-- From s to t the running operation op goes on, with as many DELAY events more as elements delayed; or it ends, with no DELAY
and RESULT kept, when every element is delayed. -/
def DelayMove (op : SeqCmd) (s t : State) : Prop :=
  (t.seqOp = some op ∧ delays t + elementsDelayed s = delays s + elementsDelayed t) ∨
  (t.seqOp = none ∧ delays t = delays s ∧ ∃ n, s.seqN = some n ∧ elementsDelayed s = n.toNat ∧ t.result = s.result)

theorem delays_emit {s : State} {e : BusEvent} (h : e ≠ .delay) : (s.trace ++ [e]).count .delay = delays s := by
  simp [delays, h]

section
variable {op : SeqCmd} {s t : State}

/-- No DELAY, and SEQ_I kept between two labels with no DELAY to count. -/
theorem DelayMove.quiet (ho : t.seqOp = some op) (hd : delays t = delays s) (hi : t.seqI = s.seqI)
    (hpc : ¬(s.seqPc = .wa3 ∨ s.seqPc = .ra3) ∧ ¬(t.seqPc = .wa3 ∨ t.seqPc = .ra3)) : DelayMove op s t :=
  .inl ⟨ho, by rw [hd, elementsDelayed, elementsDelayed, hi, if_neg hpc.1, if_neg hpc.2]⟩

/-- No DELAY, and the sequencer's registers kept. -/
theorem DelayMove.kept (ho : s.seqOp = some op) (hd : delays t = delays s) (h : t.sequencerRegs = s.sequencerRegs) :
    DelayMove op s t := by
  have hop : t.seqOp = s.seqOp := congrArg SequencerRegs.seqOp h
  have hi : t.seqI = s.seqI := congrArg SequencerRegs.seqI h
  have hpc : t.seqPc = s.seqPc := congrArg SequencerRegs.seqPc h
  exact .inl ⟨hop.trans ho, by rw [hd, elementsDelayed, elementsDelayed, hi, hpc]⟩

theorem DelayMove.of_useTurn (h : DelayMove op s.useTurn t) : DelayMove op s t := by
  simpa [DelayMove, delays, elementsDelayed] using h

theorem not_delayed_of_micro {l : SeqPc} (h : isWriteLabel l = true ∨ isReadLabel l = true) :
    ¬(l = .wa3 ∨ l = .ra3) := by
  rintro (rfl | rfl) <;> simp [isWriteLabel, isReadLabel] at h

/-- R100 to R103: WA2 and RA2 emit the DELAY of their element, WA3 and RA3 count the element, and END is reached when SEQ_I is
SEQ_N. -/
theorem MicroStep.delayMove (h : MicroStep op s (.ok t)) (hrun : RunningInv op s) (ho : s.seqOp = some op)
    (ha : isArrayOp op = true) (hs : s.cfg.strictArray = false) : DelayMove op s t := by
  cases h with
  | held => exact .kept ho rfl rfl
  | issued c hc n l hx =>
    have hmicro := not_delayed_of_micro (label_of_expectAt hx)
    exact .quiet ho rfl rfl ⟨hmicro, hmicro⟩
  | expected n l raw hx =>
    have hmicro := label_of_expectAt hx
    obtain ⟨hw, hr⟩ := expectAt_label hx
    have hnext : isWriteLabel l = true ∨ isReadLabel l = true := by rwa [hw, hr]
    exact .quiet ho rfl rfl ⟨not_delayed_of_micro hmicro, not_delayed_of_micro hnext⟩
  | unexpected n l hx => exact .quiet ho rfl rfl ⟨not_delayed_of_micro (label_of_expectAt hx), by simp⟩
  | stopped l d hl =>
    exact .quiet ho (delays_emit (by decide)) rfl (by obtain ⟨h, rfl⟩ | ⟨h, rfl⟩ := hl <;> simp [h])
  | byteEnded r x hop => simp [ha] at hop
  | elementEnded r b hb l hl hlabel hpc =>
    exact .quiet ho rfl rfl (by obtain h | h | h := hpc <;> obtain rfl | rfl := hl <;> simp [h])
  | loopDone l hl => exact .quiet ho rfl rfl (by obtain ⟨h, rfl⟩ | ⟨h, rfl⟩ := hl <;> simp [h])
  | element l a d rd hl => exact .quiet ho rfl rfl (by obtain ⟨h, rfl, -⟩ | ⟨h, rfl⟩ := hl <;> simp [h])
  | delayed l hl =>
    refine .inl ⟨ho, ?_⟩
    obtain ⟨h, rfl⟩ | ⟨h, rfl⟩ := hl <;> simp [delays, elementsDelayed, settleDelay, h] <;> omega
  | aborted hpc hstrict => simp [hs] at hstrict
  | next l hl i hi =>
    obtain ⟨base, n, i', -, -, hi', hat⟩ := hrun.loop ha
    cases hi.symm.trans hi'
    have hlt : i.toNat < n.toNat := hat.lt (by obtain ⟨h, -⟩ | ⟨h, -⟩ := hl <;> rw [h] <;> rfl)
    refine .inl ⟨ho, ?_⟩
    obtain ⟨h, rfl⟩ | ⟨h, rfl⟩ := hl <;> simp only [delays, elementsDelayed] <;> simp [h, hi, index_succ hlt]
  | loopEnded hpc => exact .quiet ho rfl rfl (by obtain h | h := hpc <;> simp [h, loopEnd])
  | arrayEnded hpc =>
    obtain ⟨base, n, i, -, hn, hi, hat⟩ := hrun.loop ha
    exact .inr ⟨rfl, rfl, n, hn, by simp [elementsDelayed, hi, hpc, hat.eq (.inr (.inr ⟨hpc, hs⟩))], rfl⟩

theorem Completed.ne_delay {ph q : Phase} {c : Pending} {n : StatusName} {e : BusEvent} (h : Completed ph c n q e) :
    e ≠ .delay := by
  cases h with
  | start => split <;> simp
  | _ => simp

/-- R92: while an operation runs, the host changes neither the sequencer's registers nor TRACE. -/
theorem HostEffect.of_running (h : HostEffect s t) (hr : s.seqReady = false) :
    t.trace = s.trace ∧ t.sequencerRegs = s.sequencerRegs := by
  cases h with
  | raised | read => exact ⟨rfl, rfl⟩
  | issued _ _ _ hready | seqIssued _ _ _ hready | buf _ _ _ hready => simp [hr] at hready

/-- What a step does to the count of DELAY events while a non-strict array operation runs. -/
theorem step_delayMove (hi : MachineInv s) (hs : s.cfg.strictArray = false) (ho : s.seqOp = some op)
    (ha : isArrayOp op = true) (h : step s = .next t) : DelayMove op s t := by
  have hu := hi.useTurn
  have ho' : s.useTurn.seqOp = some op := by simpa using ho
  cases (step_effect h).2 with
  | config => exact .kept ho rfl rfl
  | pass | raised => exact .of_useTurn (.kept ho' rfl rfl)
  | host hl hg before after u he =>
    obtain ⟨htrace, hregs⟩ := he.of_running (hu.seqReady ho')
    exact .of_useTurn (.kept ho' (congrArg (List.count BusEvent.delay) htrace) hregs)
  | sequencer hl hg op' hop hr _ hstep =>
    cases ho.symm.trans hop
    exact .of_useTurn ((microStep_useTurn hi ho hstep).delayMove (hu.sequencer.running op ho') ho' ha (by simpa using hs))
  | bus hl hg c hp hb _ hc =>
    obtain ⟨_, _, e, hcomp, htrace, -, -, -, -, -, hregs⟩ := complete_completed hc
    exact .of_useTurn (.kept ho' ((congrArg _ htrace).trans (delays_emit hcomp.ne_delay)) hregs)

end

/-- Settles O47: of the two kinds of `DelayMove` the one keeps the operation running and the other ends it. -/
theorem nonStrictArraysDelayOncePerElement : Obligations.NonStrictArraysDelayOncePerElement := by
  intro op s t hi hs ho ha h
  obtain ⟨hop, hd⟩ | hend := step_delayMove hi hs ho ha h
  · exact ⟨fun _ => hd, fun hne => absurd hop hne⟩
  · exact ⟨fun hop => by simp [hend.1] at hop, fun _ => hend⟩

end Sys2Proof.Machine
end

section
/-! Proofs for the statements of spec/41_eeprom_sequencer.md: single-byte operations run to their end on scripted turns and
answers, in Success (R97, R98, 95_test_vectors.md W4) and in Error (R99, R104, W5). -/

namespace Sys2Proof.Machine

/-! ### Success (R97, R98) -/

/-- Settles O42: `run_writeByte`, and in mode REF the laws of MEM for the byte written. -/
theorem writeByteOnAnAcknowledgingBusSucceeds : Obligations.WriteByteOnAnAcknowledgingBusSucceeds := by
  intro a d s ts k1 k2 k3 k4 rest hc hp hw ht hk h1 h2 h3 h4
  refine ⟨_, _, exec_sequencer (c := .writeByte a d) hc, run_writeByte hc hp ht hk h1 h2 h3 h4, rfl, rfl, rfl, rfl, rfl, rfl,
    rfl, rfl, rfl, rfl, hc.1.1, rfl, rfl, rfl, rfl, rfl, rfl, rfl, fun hm => State.remoteDev_oracle hm _, fun hm => ?_⟩
  rw [State.afterWriteByte, State.remoteDev_ref hm]
  exact ⟨Memory.read_write_same _ d hw, fun b hb => Memory.read_write_other hb d _, rfl, rfl⟩

theorem State.remoteDev_mem {s : State} {d : Device} (h : d.mem = s.dev.mem) : (s.remoteDev d).mem = s.dev.mem := by
  cases hm : s.cfg.mode <;> simp [State.remoteDev, hm, h]

/-- Settles O43: `run_readByte` with the byte of either mode. -/
theorem readByteOnAnAcknowledgingBusSucceeds : Obligations.ReadByteOnAnAcknowledgingBusSucceeds := by
  intro a s ts k1 k2 k3 k4 k5 k6 rest hc hp ht hk h1 h2 h3 h4 h5 h6
  refine ⟨_, _, _, exec_sequencer (c := .readByte a) hc,
    run_readByte hc hp ht hk h1 h2 h3 h4 h5 h6 (fun hm => if_pos hm) (fun hm => if_neg (by simp [hm])), rfl, rfl, rfl, rfl,
    rfl, rfl, rfl, rfl, rfl, rfl, rfl, hc.1.1, rfl, State.remoteDev_mem rfl, rfl, rfl, fun hm => ?_⟩
  rw [State.afterReadByte, State.remoteDev_ref hm]
  exact ⟨rfl, rfl⟩

/-! ### Error (R99) -/

section
variable {op : SeqCmd} {s : State} {k : BusAnswer} {ts : List Agent} {rest : List BusAnswer}

/-- R95: issue, completion with a status that is not the expected one, and the check that goes to ERR. -/
theorem run_prim_unexpected {c : Pending} {m n : StatusName} {l : SeqPc} {x : Option Byte} {ph : Phase} {e : BusEvent}
    {d : Device} (h : Runs op s) (ht : s.turns = primTurns ++ ts) (ha : s.answers = k :: rest)
    (hc : startsAt s = some c) (hx : expectAt s.seqPc = some (n, l)) (hlegal : legalIn c.cmd s.phase = true) (hmn : m ≠ n)
    (hdone : ∀ v : State, v.cfg = s.cfg → v.phase = s.phase → v.dev = s.dev → v.data = c.dataAfter s.data →
      completion c k v = .ok (m, { v with trace := v.trace ++ [e], data := x, phase := ph, dev := d })) :
    Sys2Proof.core.run 3 s = .next (s.midOp
      ⟨.err, s.cfg.sc.code m ||| k.low.setWidth 8, x, ph, s.trace ++ [e], d, ts, rest⟩) := by
  obtain ⟨hl, ho, hr, he, hb, hi⟩ := h
  have hcode : maskStatus (s.cfg.sc.code m ||| k.low.setWidth 8) ≠ s.cfg.sc.code n := by
    rw [maskStatus_code hl.2]
    exact fun hsame => hmn (code_injective hl.2 hsame)
  have hissue : step s = .next (s.issued c (.bus :: .sequencer :: ts)) := step_sequencer hl ho hr ht
    ((seqStep_prim (s := { s with turns := .bus :: .sequencer :: ts }) hc hx).trans (prim_issue hi he hb hlegal))
  have hcomplete : step (s.issued c (.bus :: .sequencer :: ts)) = .next { s.midOp ⟨s.seqPc,
      s.cfg.sc.code m ||| k.low.setWidth 8, x, ph, s.trace ++ [e], d, .sequencer :: ts, rest⟩ with seqIssued := true } :=
    step_bus hl rfl rfl rfl (complete_scripted (s := s.issued c (.sequencer :: ts)) ha (hdone _ rfl rfl rfl rfl))
  have hcheck : step { s.midOp ⟨s.seqPc, s.cfg.sc.code m ||| k.low.setWidth 8, x, ph, s.trace ++ [e], d,
      .sequencer :: ts, rest⟩ with seqIssued := true } = .next (s.midOp
      ⟨.err, s.cfg.sc.code m ||| k.low.setWidth 8, x, ph, s.trace ++ [e], d, ts, rest⟩) :=
    step_sequencer hl ho hr rfl
      ((seqStep_prim (s := { s.midOp ⟨s.seqPc, _, x, ph, s.trace ++ [e], d, ts, rest⟩ with seqIssued := true })
        hc hx).trans (prim_unexpected rfl rfl rfl hcode))
  exact (run_succ hissue 2).trans ((run_succ hcomplete 1).trans (run_succ hcheck 0))

/-- WB1, RB1 on an owned bus: Sr, which is not the status START expects (R85, R104). -/
theorem run_start_owned (h : Runs op s) (hp : s.phase = .addr ∨ s.phase = .mt ∨ s.phase = .hold)
    (ht : s.turns = primTurns ++ ts) (ha : s.answers = k :: rest) (hk : k.berr = false) (hc : startsAt s = some .start)
    {l : SeqPc} (hx : expectAt s.seqPc = some (.start, l)) :
    Sys2Proof.core.run 3 s = .next (s.midOp ⟨.err, s.cfg.sc.code .repeatedStart ||| k.low.setWidth 8, s.data, .addr,
      s.trace ++ [.sr], if s.cfg.mode = .ref then s.dev.abandon else s.dev, ts, rest⟩) := by
  have hidle : s.phase ≠ .idle := by obtain h | h | h := hp <;> simp [h]
  have hmr : s.phase ≠ .mr := by obtain h | h | h := hp <;> simp [h]
  refine run_prim_unexpected h ht ha hc hx (legalIn_start hmr) (by simp) fun v hcfg hphase hdev
    (hdata : v.data = s.data) => ?_
  rw [completion_start hk, hcfg, hphase, hdev, if_neg hidle, if_neg hidle, ← hdata]

/-- WB2, RB2: the control byte is not acknowledged (R53, R59, R87). -/
theorem run_controlWrite_nack {l : SeqPc} {raw : Byte} {x : Option Byte} {tr : List BusEvent} {d : Device} {a : LAddr}
    (h : Runs op s) (hberr : k.berr = false) (hk : k.ack = .nack) (ha : s.seqAddr = some a) (hl : l = .wb2 ∨ l = .rb2) :
    Sys2Proof.core.run 3 (s.midOp ⟨l, raw, x, .addr, tr, s.remoteDev d, primTurns ++ ts, k :: rest⟩) =
      .next (s.midOp ⟨.err, s.cfg.sc.code .addressNackW ||| k.low.setWidth 8, some (controlByte a .write), .hold,
        tr ++ [.tx (controlByte a .write) .nack], s.remoteDev { d with wst := .skip }, ts, rest⟩) := by
  have hdir : (controlByte a .write).extractLsb' 0 1 = 0#1 := controlByte_direction a .write
  have hstatus : writeStatus .addr (controlByte a .write) .nack = .addressNackW := by simp [writeStatus, hdir]
  have hdone : ∀ v : State, v.cfg = s.cfg → v.phase = .addr → v.dev = s.remoteDev d →
      v.data = some (controlByte a .write) →
      completion (.write (controlByte a .write)) k v = .ok (.addressNackW, { v with
        trace := v.trace ++ [.tx (controlByte a .write) .nack], data := some (controlByte a .write), phase := .hold,
        dev := s.remoteDev { d with wst := .skip } }) := by
    intro v hcfg hphase hdev hdata
    rw [completion_write (r := .nack) (d := s.remoteDev { d with wst := .skip }) hberr, hphase, hstatus, ← hdata]
    · rfl
    · rw [hcfg, hphase, hdev, hk]
      intro hm
      rw [State.remoteDev_ref hm, State.remoteDev_ref hm]
      exact (if_pos rfl).trans (control_nack (.inr rfl))
    · rw [hcfg, hdev, hk]
      intro hm
      rw [State.remoteDev_oracle hm, State.remoteDev_oracle hm]
      exact ⟨rfl, rfl⟩
  obtain rfl | rfl := hl <;>
    exact run_prim_unexpected (c := .write (controlByte a .write)) (n := .addressAckW) (h.midOp _) rfl rfl
      (by simp [startsAt, State.midOp, ha]) rfl rfl (by simp) hdone

/-- R96, R99: the step at ERR. -/
theorem step_err {t : State} {raw : Byte} {x : Option Byte} {ph : Phase} {tr : List BusEvent} {d : Device} (h : Runs op s)
    (ht : finishByte op .error (s.midOp ⟨.err, raw, x, ph, tr, d, ts, rest⟩) = .ok t) :
    step (s.midOp ⟨.err, raw, x, ph, tr, d, .sequencer :: ts, rest⟩) = .next t :=
  step_sequencer h.live h.op h.running rfl ((seqStep_error rfl).trans ht)

end

/-- Settles O45: S, the control byte that is not acknowledged, and ERR. -/
theorem unacknowledgedControlByteAborts : Obligations.UnacknowledgedControlByteAborts := by
  intro a d s ts k1 k2 rest hc hp ht hk h1 hberr hnack
  have h := runs_loadOp (.writeByte a d) hc
  have hrun := calc Sys2Proof.core.run 7 ((s.beginOp (.writeByte a d)).loadOp (.writeByte a d))
    _ = Sys2Proof.core.run 4 _ := run_add (run_start (l := .wb2) h hp ht hk h1 rfl rfl) 4
    _ = Sys2Proof.core.run 1 _ := run_add (run_controlWrite_nack h hberr hnack rfl (.inl rfl)) 1
    _ = Sys2Proof.core.run 0 _ := run_succ (step_err h rfl) 0
    _ = .next _ := rfl
  exact ⟨_, _, exec_sequencer (c := .writeByte a d) hc, hrun, List.append_assoc .., rfl, rfl, rfl, rfl, hc.1.1,
    State.remoteDev_mem rfl⟩

/-- Settles O46: Sr, and ERR. -/
theorem operationOnAnOwnedBusFails : Obligations.OperationOnAnOwnedBusFails := by
  intro a d s ts k rest hc hp ht hk hberr
  have hw := runs_loadOp (.writeByte a d) hc
  have hr := runs_loadOp (.readByte a) hc
  have hwrite := calc Sys2Proof.core.run 4 ((s.beginOp (.writeByte a d)).loadOp (.writeByte a d))
    _ = Sys2Proof.core.run 1 _ := run_add (run_start_owned (l := .wb2) hw hp ht hk hberr rfl rfl) 1
    _ = Sys2Proof.core.run 0 _ := run_succ (step_err hw rfl) 0
    _ = .next _ := rfl
  have hread := calc Sys2Proof.core.run 4 ((s.beginOp (.readByte a)).loadOp (.readByte a))
    _ = Sys2Proof.core.run 1 _ := run_add (run_start_owned (l := .rb2) hr hp ht hk hberr rfl rfl) 1
    _ = Sys2Proof.core.run 0 _ := run_succ (step_err hr rfl) 0
    _ = .next _ := rfl
  exact ⟨⟨_, _, exec_sequencer (c := .writeByte a d) hc, hwrite, rfl, rfl, rfl, rfl, hc.1.1⟩,
    ⟨_, _, exec_sequencer (c := .readByte a) hc, hread, rfl, rfl, rfl, rfl, rfl, hc.1.1⟩⟩

end Sys2Proof.Machine
end

section
/-! Proofs for the statements of spec/60_exceptions.md: faults are precise (R109), a stopped machine has no step (R33, R109),
and the turn of the agent named next (R112). -/

namespace Sys2Proof.Machine

/-! ### Faults are precise (R106, R109) -/

/-- Every instruction is one step taken whole or not at all. -/
theorem exec_eq_act (i : Instr) (s : State) : ∃ f, exec i s = act f s := by
  cases i <;> exact ⟨_, rfl⟩

theorem exec_next_faulted {i : Instr} {s t : State} (h : exec i s = .next t) : s.faulted = none := by
  obtain ⟨f, hf⟩ := exec_eq_act i s
  exact (act_next (hf ▸ h)).1

theorem IssueEffect.faulted {s t : State} (h : IssueEffect s t) : t.faulted = s.faulted := by
  cases h <;> simp

/-- R109: a transaction of the host raises on the state as it was, or keeps FAULTED. -/
theorem HostEffect.raise_or_faulted {s t : State} (h : HostEffect s t) :
    (∃ e, t = s.raise e) ∨ t.faulted = s.faulted := by
  cases h with
  | raised e => exact .inl ⟨e, rfl⟩
  | read p v => exact .inr (s.deliver_faulted p v)
  | issued c _ hl hr h => exact .inr (issue_effect h).faulted
  | seqIssued c _ hl hr h =>
    obtain ⟨_, _, rfl⟩ := seqIssue_ok h
    exact .inr ((loadOp_frame c (s.beginOp c)).1.trans (s.beginOp_faulted c))
  | buf i v hl hr => exact .inr rfl

/-- Settles O54: an instruction runs with FAULTED none, and only a raise sets it. -/
theorem faultsArePrecise : Obligations.FaultsArePrecise := by
  intro i s t h ht
  obtain ⟨e, rfl⟩ | hkept := (exec_effect h).raise_or_faulted
  · rfl
  · exact absurd (hkept.trans (exec_next_faulted h)) ht

/-! ### A stopped machine (R33, R109) -/

theorem stopped_faulted {f : Fault} {s : State} (h : s.faulted = some (.fault f)) : stopped s = some (.fault f) := by
  rw [stopped, h]

theorem stopped_refused {r : Refusal} {s : State} (h : s.faulted = some (.refusal r)) : stopped s = some (.refused r) := by
  rw [stopped, h]

theorem step_of_stopped {o : Host.Outcome State Fault Refusal} {s : State} (h : stopped s = some o) : step s = o := by
  rw [step, machineStep, h]

theorem exec_of_stopped {o : Host.Outcome State Fault Refusal} {s : State} (h : stopped s = some o) (i : Instr) :
    exec i s = o := by
  obtain ⟨f, hf⟩ := exec_eq_act i s
  rw [hf, act, h]

/-- Settles O52: a step and every instruction answer what `stopped` does. -/
theorem faultedMachineHasNoStep : Obligations.FaultedMachineHasNoStep :=
  fun i _ => ⟨fun _ h => ⟨step_of_stopped (stopped_faulted h), exec_of_stopped (stopped_faulted h) i⟩,
    fun _ h => ⟨step_of_stopped (stopped_refused h), exec_of_stopped (stopped_refused h) i⟩⟩

/-! ### The turn of the agent named next (R13, R112) -/

theorem hostTurn_nil {s : State} (h : s.host = []) : hostTurn s = .next s := by
  rw [hostTurn, h]

theorem sequencerTurn_noOp {s : State} (h : s.seqOp = none) : sequencerTurn s = .next s := by
  rw [sequencerTurn, h]

theorem busTurn_notBusy {s : State} (h : s.busy = false) : busTurn s = .next s := by
  cases hp : s.pend <;> simp [busTurn, hp, h]

/-- Settles O48: a step of a live machine is the agent's turn (`step_of_turn`), and an agent with nothing to do passes. -/
theorem stepIsTheTurnOfTheNamedAgent : Obligations.StepIsTheTurnOfTheNamedAgent := by
  intro g turns s hl ht
  have hstep : step s = agentTurn g { s with turns := turns } := step_of_turn hl ht
  refine ⟨hstep.trans (by cases g <;> rfl), ?_, ?_, ?_⟩
  · rintro hhost rfl
    exact hstep.trans (hostTurn_nil hhost)
  · rintro hop rfl
    exact hstep.trans (sequencerTurn_noOp hop)
  · rintro hbusy rfl
    exact hstep.trans (busTurn_notBusy hbusy)

end Sys2Proof.Machine
end

section
/-! Proofs for the statements of spec/70_reset_and_hazards.md: the reset values and the machine's invariant at them (R122,
R123), a wait on READY after STOP (R127), and the host beside a running sequencer (R131). -/

namespace Sys2Proof.Machine

/-! ### Reset (R122, R123) -/

/-- Settles O8: the start of a run is these values by definition, and an element of BUF that is not listed is none. -/
theorem resetLeavesTheStatedValues : Obligations.ResetLeavesTheStatedValues := by
  rintro cfg mem0 s rfl
  simp [State.launch, Device.launch, bufGet, cellGet]

/-- R20, R26: at the start of a run no phase is in flight and no status is held. -/
theorem engineInv_launch (cfg : Config) (mem0 : Cells) : EngineInv (State.launch cfg mem0) := by
  constructor <;> simp [State.launch]

/-- R51: at the start of a run the device is in no transaction, so its position says nothing but that MEM is canonical. -/
theorem deviceInv_launch (cfg : Config) {mem0 : Cells} (h : Memory.wf mem0 = true) : DeviceInv (State.launch cfg mem0) where
  memWf := h
  transmitter := by simp [State.launch]
  receiver := by simp [State.launch]
  blkHeld := by simp [State.launch, Device.launch]
  ptrHeld := by simp [State.launch, Device.launch]
  wpendHeld := by simp [State.launch, Device.launch]

theorem machineInv_launch (cfg : Config) {mem0 : Cells} (h : Memory.wf mem0 = true) : MachineInv (State.launch cfg mem0) where
  engine := engineInv_launch cfg mem0
  device := deviceInv_launch cfg h
  sequencer := .of_idle rfl rfl rfl rfl
  bufWf := rfl

/-- Settles O9: `machineInv_launch`, and State.reset is the start of a run whose MEM0 lists no byte. -/
theorem resetMeetsTheInvariant : Obligations.ResetMeetsTheInvariant :=
  ⟨rfl, fun cfg _ => machineInv_launch cfg, machineInv_launch resetConfig rfl⟩

/-! ### A wait on READY after STOP (R86, R127) -/

theorem step_of_live {s : State} (h : s.live) : step s = agentTurn s.nextAgent s.useTurn := by
  rw [step, machineStep, stopped_of_live h]

/-- R127: the host waits for READY, and nothing runs that could raise it. -/
structure WaitsInVain (rest : List HostLine) (s : State) : Prop where
  live : s.live
  notReady : s.ready = false
  notBusy : s.busy = false
  noOp : s.seqOp = none
  waiting : s.host = .wait 0x003#9 1#32 :: rest

theorem WaitsInVain.useTurn {rest : List HostLine} {s : State} (h : WaitsInVain rest s) : WaitsInVain rest s.useTurn where
  live := useTurn_live h.live
  notReady := by simpa using h.notReady
  notBusy := by simpa using h.notBusy
  noOp := by simpa using h.noOp
  waiting := by simpa using h.waiting

/-- The host's poll reads READY = 0 and its line stays; the other two agents pass. -/
theorem WaitsInVain.agentTurn {rest : List HostLine} {s : State} (h : WaitsInVain rest s) (g : Agent) :
    ∃ reads, agentTurn g s = .next { s with hostReads := reads } := by
  cases g with
  | host =>
    have hread : flagValue s.ready ≠ 1#32 := by simp [h.notReady, flagValue]
    exact ⟨_, (hostTurn_poll h.live h.waiting (perform_ready h.live)).2 hread⟩
  | sequencer => exact ⟨s.hostReads, sequencerTurn_noOp h.noOp⟩
  | bus => exact ⟨s.hostReads, busTurn_notBusy h.notBusy⟩

/-- Settles O51: a step uses up a turn, which keeps `WaitsInVain`, and changes nothing else but what the host has read. -/
theorem waitOnReadyAfterStopNeverEnds : Obligations.WaitOnReadyAfterStopNeverEnds := by
  intro rest s t hl hr hb ho hh hstep
  have hu := (WaitsInVain.mk hl hr hb ho hh).useTurn
  obtain ⟨reads, hturn⟩ := hu.agentTurn s.nextAgent
  cases hturn.symm.trans ((step_of_live hl).symm.trans hstep)
  exact ⟨hu.live, hu.notReady, hu.notBusy, hu.noOp, s.useTurn_host, s.useTurn_trace⟩

/-! ### The host while the sequencer runs (R92, R112, R131) -/

/-- R92, R131: with SEQ_READY = 0 a transaction of the host delivers a value or raises, every write being checked first. -/
theorem HostEffect.reads_only {s t : State} (h : HostEffect s t) (hr : s.seqReady = false) :
    t = { s with hostReads := t.hostReads, faulted := t.faulted } := by
  cases h with
  | raised | read => rfl
  | issued _ _ _ hready | seqIssued _ _ _ hready | buf _ _ _ hready => simp [hr] at hready

/-- Settles O59: a host turn advances the lines, and performs at most one transaction (`HostEffect.reads_only`). -/
theorem hostOnlyReadsWhileTheSequencerRuns : Obligations.HostOnlyReadsWhileTheSequencerRuns := by
  intro s t hr hturn
  obtain ⟨lines, rfl⟩ | ⟨before, after, u, he, rfl⟩ := hostTurn_effect hturn
  · rfl
  · rw [he.reads_only hr]

end Sys2Proof.Machine
end
